-- ==== Sys2Proof/Word.lean ====
section
/-! DEFINITION. The words of the Puaro block: the 14-bit cell with its poison bit (R9, R12), the cell of an engine stack
(28 bits, so that a twin pair's cells fit, R321), the keyed lists that hold sparse state in one canonical form, the masters
that make accesses, and a frame as it stands on a link. -/

namespace Sys2Proof

/-- A cell on a bus, in a queue or on a port: 14 data bits and the poison bit P (R9, R12). -/
structure BCell where
  v : BitVec 14
  p : Bool
deriving DecidableEq, Repr

/-- A cell of an engine: 28 bits (single-mode engines use bits 13:0, R256; a twin pair uses all, R321), P, and the
mark of a place that a long operation has reserved and not yet filled (R239, R305). -/
structure SCell where
  v : BitVec 28
  p : Bool
  pend : Bool
deriving DecidableEq, Repr

/-- A fixed number of like things: a list of exactly `n` entries. -/
abbrev Fixed (α : Type) (n : Nat) := { l : List α // l.length = n }

/-- Sparse data by key: pairs in rising order of key, none equal to what an unlisted key reads as. -/
abbrev KMap (α : Type) := List (Nat × α)

/-- The masters that make accesses (R68, R399, R560): the engines, the host target port, the steward, link DMA (the
steward for a command taken from a CMD frame) and the debug master. -/
inductive Master where
  | engine (e : Nat)
  | host
  | steward
  | linkDma
  | debug
deriving DecidableEq, Repr

/-- What starts a warm or a cold reset (R491). -/
inductive ResetCause where
  /-- PORESET_N for a cold reset, WRESET_N for a warm reset. -/
  | pin
  /-- A write to BLK.RSTCTL. -/
  | software
  /-- A write to DBG.RESET. -/
  | debug
deriving DecidableEq, Repr

/-- The words of one frame as they arrive on a link (R88, R92): the header word, the payload words, and the trailer word,
none where the frame was ended by another header or its link left UP. -/
structure WireFrame where
  hdr : BitVec 64
  pay : List (BitVec 64)
  trl : Option (BitVec 64)
deriving DecidableEq, Repr

end Sys2Proof
end

