-- ==== Sys2Proof/Syntax.lean ====
section
/-! DEFINITION. The commands of the Puaro block: one constructor for each row of spec/opcode_table.json, in its order. The
operands name the unit (field f, link l, engine e, timer k), the master that makes an access, and what the outside world
brings (a cell, a frame, a pin's level). A syllable command carries only its engine: what it works on is in the engine's
code and contexts. -/

namespace Sys2Proof

/-- The commands and events of the block (spec/opcode_table.json). -/
inductive Instr where
  /-- PORESET_ASSERT (R501): Assertion of PORESET_N puts the block in OFF, ends every access and drives the outputs to their reset values. -/
  | poresetAssert
  /-- PORESET_RELEASE (R481): Release of PORESET_N enters COLD, which starts the memory clear and the fuse load. -/
  | poresetRelease
  /-- WRESET_N (R502): WRESET_N sampled 0 on four consecutive SCLK cycles starts a warm reset. -/
  | wresetN
  /-- WARM_RESET (R493): A warm reset stops routines at commit points, restores sinter blocks, applies the warm values and enters CONFIG with PEND set. -/
  | warmReset (cause : ResetCause)
  /-- WARM_RESET_COMPLETE (R493): The warm reset sequence ends, PEND clears and the accesses that waited act on the warm values. -/
  | warmResetComplete
  /-- COLD_RESET (R491): A software or debug cold reset enters COLD at once. -/
  | coldReset (cause : ResetCause)
  /-- MEMORY_CLEAR_COMPLETE (R410): The clear of every memory to the all-zero word ends, and MEMSTAT.CLR falls. -/
  | memoryClearComplete
  /-- FUSE_LOAD_COMPLETE (R492): The fuse record has been read and is checked, and it loads the CAL set and STW.BOOT or the defaults. -/
  | fuseLoadComplete (present : Bool) (record : List BCell)
  /-- FUSE_TIMEOUT (R492): A fuse port that has not finished within 1 ms is treated as reporting no storage, and the defaults load. -/
  | fuseTimeout (present : Bool)
  /-- COLD_COMPLETE (R492): With the clear and the fuse load both finished, COLD ends in CONFIG, or in SAFESTOP under KILL_N. -/
  | coldComplete
  /-- KILL_N (R388): KILL_N held low for 3 SCLK cycles drops every level to 0 and enters SAFESTOP. -/
  | killN (low : Bool)
  /-- DPOR_N (R504): DPOR_N resets the debug island alone. -/
  | dporN
  /-- PSW_ACK_RISE (R507): The rise of PSW_ACK starts the field-wake reset of that field. -/
  | pswAckRise (f : Nat)
  /-- PSW_ACK_FALL (R507): The fall of PSW_ACK completes power-off and isolates the field. -/
  | pswAckFall (f : Nat)
  /-- SLOT_BOUNDARY (R58): A rising BCLK edge advances the slot counter, and at a sweep boundary the sweep counter, and launches the tagged boundary to every island. -/
  | slotBoundary (mark : Bool)
  /-- MARKER (R64): A SWEEP_MARK sample of 1 after 0 is a marker, which counts toward lock or resynchronises the slot counter in ACQUIRE and is checked while locked. -/
  | marker
  /-- NOBCLK_SET (R56): The absence of BCLK edges for 2 slow ticks sets NOBCLK, after which the steward answers TB accesses and lock is lost. -/
  | nobclkSet
  /-- CAPTURE (R72): A selected CAP edge records the slot and sweep in its capture set, sets NEW or OVR and raises source 450 or 451. -/
  | capture (k : Nat) (rising : Bool)
  /-- FIELD_SLOT_BOUNDARY (R25): A field processes a tagged slot boundary and performs the slot-path actions that belong to it. -/
  | fieldSlotBoundary (f : Nat)
  /-- DISPATCH (R30): At s + A + 2 the member's C0 is taken at an instruction boundary, its stacks are emptied, recbase and the slot are pushed and it starts at SLOTENTRY. -/
  | dispatch (f : Nat)
  /-- OVERRUN (R39): C0 has not committed SLOTEND by the deadline, so it is abandoned, SAFEDEC is emitted and source 506 is raised. -/
  | overrun (f : Nat)
  /-- FEN_TAKE_EFFECT (R28): FEN 0 to 1 takes effect at the first boundary with BUSY 0 and level 8, which resets the rotation pointer, the marks and the ring index. -/
  | fenTakeEffect (f : Nat)
  /-- FEN_CLEAR_TAKE_EFFECT (R578): The clearing of FEN takes effect at the next boundary, and the slots already released finish. -/
  | fenClearTakeEffect (f : Nat)
  /-- HIT_FRAME (R98): A received HIT frame is checked and classified by alignment under its tag. -/
  | hitFrame (l : Nat) (w : WireFrame)
  /-- RUN_FRAME (R99): A received RUN frame carrying a run of samples is checked and classified by alignment. -/
  | runFrame (l : Nat) (w : WireFrame)
  /-- RUNC_FRAME (R99): A received RUNC frame of compander codes is checked and classified by alignment. -/
  | runcFrame (l : Nat) (w : WireFrame)
  /-- MAP_SAMPLE (R145): The mapper masks, looks up, subtracts the pedestal, applies the gain, suppresses and forwards one sample or hit. -/
  | mapSample (f : Nat) (rel : Nat)
  /-- BORDER_COPY (R152): A border copy from a neighbour field enters the matcher, or is dropped and poisons the slot when it is late. -/
  | borderCopy (f : Nat)
  /-- PRIM_FRAME (R138): A PRIM frame on a fabric link is aligned into a peer entry, or routed under R121. -/
  | primFrame (l : Nat) (w : WireFrame)
  /-- DECISION_FRAME (R138): A DECISION frame on a fabric link is aligned into a peer entry, or routed. -/
  | decisionFrame (l : Nat) (w : WireFrame)
  /-- DOORBELL_FRAME (R102): A DOORBELL frame delivers up to four doorbells to the event controllers. -/
  | doorbellFrame (l : Nat) (w : WireFrame)
  /-- CMD_FRAME (R121): A CMD frame is routed, and when it is delivered locally it is queued for the steward or answered BUSY. -/
  | cmdFrame (l : Nat) (w : WireFrame)
  /-- REPLY_FRAME (R453): A received REPLY frame is placed in the reply FIFO with its envelope, or dropped when there is no room. -/
  | replyFrame (l : Nat) (w : WireFrame)
  /-- STATUS_FRAME (R453): A received STATUS frame is placed in the reply FIFO as a status-11 packet. -/
  | statusFrame (l : Nat) (w : WireFrame)
  /-- TIME_FRAME (R103): A received TIME frame's sweep is compared with the own counter and sets TIMEMIS on a mismatch. -/
  | timeFrame (l : Nat) (w : WireFrame)
  /-- TRACE_FRAME (R552): A received TRACE frame is queued as a KIND 5 packet and its packets when PORT is 1. -/
  | traceFrame (l : Nat) (w : WireFrame)
  /-- IDLE_FRAME (R112): An IDLE frame is consumed by the port, and its trailer returns credits. -/
  | idleFrame (l : Nat) (w : WireFrame)
  /-- TRAINING_WORD (R115): A received training word drives the link's training state and measures its latency. -/
  | trainingWord (l : Nat) (w : BitVec 64)
  /-- LINK_SILENCE_DOWN (R115): The fifth slot boundary with no received word puts the link in DOWN. -/
  | linkSilenceDown (l : Nat)
  /-- FRAME_TRANSMIT (R112): A frame starts on a fabric link once the credits cover its length, and the length is debited. -/
  | frameTransmit (l : Nat)
  /-- CREDIT_IDLE_SEND (R112): An IDLE frame is sent when THRESH credits are owed, or when credit is owed and nothing has been sent for 64 link cycles. -/
  | creditIdleSend (l : Nat)
  /-- STATUS_SEND (R104): Every STATPER sweeps the block originates a STATUS frame to STATDEST. -/
  | statusSend
  /-- TIMER_TICK (R77): The prescaler reaches TMRkPRE, returns to 0 and gives a tick, which counts the timer and ages geyser sources. -/
  | timerTick (f k : Nat)
  /-- TIMER_FIRE (R78): The timer count reaches PERIOD, wraps, raises source 464 + k and clears EN in one-shot mode. -/
  | timerFire (f k : Nat)
  /-- GSTART_WRITE (R82): A write to TB.GSTART with nonzero masks schedules a global release two boundaries later. -/
  | gstartWrite (m : Master) (c : BCell)
  /-- GSTART_RELEASE (R82): At the scheduled boundary the masked timers of the masked fields are reset and enabled. -/
  | gstartRelease
  /-- GEYSER_AGE_PENDING (R341): A source's age reaches TIME, so it becomes PENDING or sets REPEND. -/
  | geyserAgePending (f src : Nat)
  /-- DEADLINE_EXPIRE (R381): An armed deadline count reaches 0, which sets EXPn and raises source 459. -/
  | deadlineExpire (e n : Nat)
  /-- QUANTUM_EXPIRE (R369): A context that has run QUANT × 64 cycles ends its turn. -/
  | quantumExpire (e : Nat)
  /-- GOV_TICK (R377): At each governor tick the TEMP and ISENSE codes are sampled and the thermal step is updated. -/
  | govTick (temps : List (BitVec 10)) (isense : BitVec 12)
  /-- K_WINDOW_END (R380): At the end of a 64-tick window with ISEN set, K is recomputed and clamped. -/
  | kWindowEnd
  /-- LEVEL_STEP (R386): After the RAMPSTEP gap the lowest field off its target steps one activity level. -/
  | levelStep
  /-- BUCKET_LEAK (R414): Every PER × 256 slot boundaries the leaky bucket level falls by 1. -/
  | bucketLeak (f : Nat)
  /-- LOCKOUT_EXPIRE (R529): The 65,536-TCK lockout after a failed response ends. -/
  | lockoutExpire
  /-- SLEEP_COUNT_SATURATE (R362): The slow-tick count saturates at 2^28 − 1 and sets AON.STAT.SAT. -/
  | sleepCountSaturate
  /-- HM_RESPONSE (R513): A host master-port response completes its access, counting errors. -/
  | hmResponse (cells : List BCell) (err : Bool)
  /-- HM_TIMEOUT (R513): A master request not answered within HMTO ticks completes as an error. -/
  | hmTimeout
  /-- HOST_TARGET_READ (R510): A host target-port read request of one or two cells is executed in order and answered. -/
  | hostTargetRead (a : Nat) (two : Bool)
  /-- HOST_TARGET_WRITE (R511): A host target-port write request of one or two cells is executed in order and answered. -/
  | hostTargetWrite (a : Nat) (two : Bool) (c d : BCell)
  /-- REGISTER_WRITE (R17): A write to a register with no row of its own stores or clears bits under its access code. -/
  | registerWrite (m : Master) (a : Nat) (c : BCell)
  /-- COUNTER_READ (R17): A read of an RC register returns its value and clears it. -/
  | counterRead (m : Master) (a : Nat)
  /-- WIDE_LO_READ (R68): A read of the LO cell of a latched pair returns bits 13:0 and latches the high cell for the reading master. -/
  | wideLoRead (m : Master) (a : Nat)
  /-- CAPSLOT_READ (R73): A read of TB.CAPkSLOT returns the captured slot and clears NEW. -/
  | capslotRead (m : Master) (k : Nat)
  /-- TB_SPS_WRITE (R57): A TB.SPS write is accepted in the permitted modes for the next sweep boundary, or refused with SPSWR. -/
  | tbSpsWrite (m : Master) (c : BCell)
  /-- SPS_TAKE_EFFECT (R57): The last accepted SPS becomes effective at the next sweep boundary. -/
  | spsTakeEffect
  /-- TB_CTL_SWLD (R59): A write of SWLD schedules the load of the sweep counter. -/
  | tbCtlSwld (m : Master)
  /-- SWEEP_LOAD (R59): At the next sweep boundary the sweep counter is loaded from SWPRE and SWLD clears. -/
  | sweepLoad
  /-- TB_CTL_RTCLR (R60): A write of RTCLR schedules the clear of RUNTIME. -/
  | tbCtlRtclr (m : Master)
  /-- RUNTIME_CLEAR (R60): At the next slot boundary RUNTIME is set to 0 and RTCLR clears. -/
  | runtimeClear
  /-- TMR_ENABLE (R79): EN changing from 0 to 1 resets COUNT and the prescaler. -/
  | tmrEnable (m : Master) (f k : Nat) (c : BCell)
  /-- TMR_PERIOD_WRITE (R80): A PERIOD write applies from the next tick, including a tick in the same cycle. -/
  | tmrPeriodWrite (m : Master) (f k : Nat) (c : BCell)
  /-- MAPALIGN_WRITE (R128): A MAPALIGN write sets the block's A in CONFIG or LINKUP, or is refused with AWR. -/
  | mapalignWrite (m : Master) (f : Nat) (c : BCell)
  /-- MAPMASK_WRITE (R153): A MAPMASKj write masks a channel from the first slot whose release follows the write. -/
  | mapmaskWrite (m : Master) (f j : Nat) (c : BCell)
  /-- MATRING_WRITE (R173): A MATRING write is accepted only with FEN and BUSY at 0, or refused with RWR. -/
  | matringWrite (m : Master) (f : Nat) (c : BCell)
  /-- FCFG_WRITE (R480): An FCFG write sets FEN, DECPORT and the other fields, with FEN and the peer fields refused in the wrong state. -/
  | fcfgWrite (m : Master) (f : Nat) (c : BCell)
  /-- ROT_WRITE (R29): A ROT write while FEN is 1 is ignored with ROTWR, and otherwise it sets the rotation set. -/
  | rotWrite (m : Master) (f : Nat) (c : BCell)
  /-- DECISION_WRITE (R47): A member C0's write to DECISION sets its slot's decision, or marks the slot when the cell is poisoned. -/
  | decisionWrite (m : Master) (f : Nat) (c : BCell)
  /-- PRIMQ_WRITE (R48): A write to PRIMQ appends one cell to the slot's primitive list, up to 32. -/
  | primqWrite (m : Master) (f : Nat) (c : BCell)
  /-- DOORBELL_WRITE (R335): A write to DOORBELL raises the named source. -/
  | doorbellWrite (m : Master) (f : Nat) (c : BCell)
  /-- EVCLAIM_READ (R346): A read of EVCLAIMk claims the highest pending source of engine k. -/
  | evclaimRead (m : Master) (f k : Nat)
  /-- EVDONE_WRITE (R347): A write to EVDONEk completes the named active source, or counts a bad completion. -/
  | evdoneWrite (m : Master) (f k : Nat) (c : BCell)
  /-- SOURCE_TABLE_WRITE (R348): A source-table write changes a source's settings, retargets its state or returns it to IDLE. -/
  | sourceTableWrite (m : Master) (a : Nat) (c : BCell)
  /-- EVENT_ENTRY (R351): At a sampled boundary with the request line asserted, the frame is pushed, the vector is chosen and claimed, and the handler starts. -/
  | eventEntry (e : Nat)
  /-- STORE_DRAIN (R301): The oldest store-buffer entry drains to its destination. -/
  | storeDrain (e : Nat)
  /-- LONG_OP_COMPLETE (R305): A long-op fills its pending places and writes its flags. -/
  | longOpComplete (e : Nat)
  /-- ECC_WRITEBACK (R413): A queued correction write-back writes the corrected cell on port B. -/
  | eccWriteback (f : Nat)
  /-- SINTER_STEP (R419): The sinter takes one copy, March or restore step of the block it has borrowed. -/
  | sinterStep (f : Nat)
  /-- SINTER_MAINT_READ (R424): The maintenance pass reads one word of a table memory in an idle cycle and rewrites it when it is correctable. -/
  | sinterMaintRead (f a : Nat)
  /-- ECCFLIPHI_ARM (R417): A write of ARM to ECCFLIPHI arms the flip mask. -/
  | eccfliphiArm (m : Master) (f : Nat) (c : BCell)
  /-- ECTL_RUN_SET (R436): A write of RUN = 1 starts the engine, or resumes it after a machine check. -/
  | ectlRunSet (m : Master) (e : Nat) (c : BCell)
  /-- ECTL_RUN_CLEAR (R213): A write of RUN = 0 stops the engine at the next boundary and clears MCHK. -/
  | ectlRunClear (m : Master) (e : Nat) (c : BCell)
  /-- CTXDATA_READ (R211): A CTXDATA read returns the selected context register and applies AINC. -/
  | ctxdataRead (m : Master) (e : Nat)
  /-- CTXDATA_WRITE (R212): A CTXDATA write sets the selected context register, or is refused for an executing context. -/
  | ctxdataWrite (m : Master) (e : Nat) (c : BCell)
  /-- PAIR_JOIN (R318): Setting a JOIN bit joins two engines into a twin pair when the conditions hold. -/
  | pairJoin (m : Master) (f : Nat) (c : BCell)
  /-- PAIR_SEPARATE (R319): Clearing a JOIN bit separates a twin pair when the conditions hold. -/
  | pairSeparate (m : Master) (f : Nat) (c : BCell)
  /-- DEADLINE_WRITE (R381): A write to DEADLINEn arms the timer with the value written. -/
  | deadlineWrite (m : Master) (e n : Nat) (c : BCell)
  /-- LEDCTL_FILL (R372): A write of FILL sets the balance to CAP. -/
  | ledctlFill (m : Master) (f : Nat)
  /-- LEDCTL_ECLR (R383): A write of ECLR clears the essential spend and lifts the suspension. -/
  | ledctlEclr (m : Master) (f : Nat)
  /-- CAL_WRITE (R391): A write to a CAL value replaces it and sets CAL.STAT.SRC to 2. -/
  | calWrite (m : Master) (i : Nat) (c : BCell)
  /-- FAB_ID_WRITE (R120): A device-ID write is accepted in CONFIG, or refused with IDWR. -/
  | fabIdWrite (m : Master) (hi : Bool) (c : BCell)
  /-- ROUTE_ENTRY_WRITE (R124): A route-table or member write applies to frames whose headers arrive after it. -/
  | routeEntryWrite (m : Master) (a : Nat) (c : BCell)
  /-- LINK_ENABLE (R115): EN set to 1 takes a DOWN link into TRAIN. -/
  | linkEnable (m : Master) (l : Nat) (c : BCell)
  /-- LINK_DISABLE (R115): EN set to 0 puts the link in DOWN. -/
  | linkDisable (m : Master) (l : Nat) (c : BCell)
  /-- RETRAIN (R118): RETRAIN returns the link to TRAIN at the next transmit frame boundary and resets its credits. -/
  | retrain (m : Master) (l : Nat) (c : BCell)
  /-- CMDIN_WRITE (R449): A write to CMDIN appends a command cell, or is discarded with INOVF when the FIFO is full. -/
  | cmdinWrite (m : Master) (c : BCell)
  /-- CMDOUT_READ (R453): A read of CMDOUT removes and returns the next reply cell. -/
  | cmdoutRead (m : Master)
  /-- CMDCTL_INFLUSH (R449): A write of INFLUSH empties the command FIFO and clears INOVF. -/
  | cmdctlInflush (m : Master)
  /-- CMDCTL_OUTFLUSH (R476): A write of OUTFLUSH empties the reply FIFO. -/
  | cmdctlOutflush (m : Master)
  /-- HOSTBELLSET_WRITE (R521): A write of 1 to a HOSTBELLSET bit sets the matching HOSTBELL bit. -/
  | hostbellsetWrite (m : Master) (c : BCell)
  /-- RSTCTL_WARM (R491): A write to RSTCTL with the key and ACTION 1 starts a warm reset. -/
  | rstctlWarm (m : Master)
  /-- RSTCTL_COLD (R491): A write to RSTCTL with the key and ACTION 2 starts a cold reset. -/
  | rstctlCold (m : Master)
  /-- FPWR_ON (R494): Setting an FPWR.ON bit powers the field up through the handshake. -/
  | fpwrOn (m : Master) (c : BCell)
  /-- FPWR_OFF (R494): Clearing an FPWR.ON bit sets the field's target level to 0 for power-off. -/
  | fpwrOff (m : Master) (c : BCell)
  /-- MODE_REQ_CONFIG (R481): A request for CONFIG changes mode, or enters DRAIN while slots are still running. -/
  | modeReqConfig (m : Master)
  /-- MODE_REQ_LINKUP (R481): A request for LINKUP makes the enabled links train. -/
  | modeReqLinkup (m : Master)
  /-- MODE_REQ_FREERUN (R481): A request for FREERUN lets the slot path run without lock. -/
  | modeReqFreerun (m : Master)
  /-- MODE_REQ_ACQUIRE (R481): A request for ACQUIRE starts the lock search and ramps the fields to level 8. -/
  | modeReqAcquire (m : Master)
  /-- MODE_REQ_SELFTEST (R488): A request for SELFTEST starts the destructive memory test. -/
  | modeReqSelftest (m : Master)
  /-- MODE_REQ_WATCH (R487): A request for WATCH starts the stop of the field clocks, or a drain first. -/
  | modeReqWatch (m : Master)
  /-- MODE_REQ_SAFESTOP (R489): A request for SAFESTOP clears FEN and ramps every field to level 0. -/
  | modeReqSafestop (m : Master)
  /-- MODE_REQ_WAKE (R487): A write of WAKEMODE's code in WATCH requests a wake. -/
  | modeReqWake (m : Master)
  /-- DRAIN_ENTRY (R484): At the next slot boundary DRAIN clears FEN in every field. -/
  | drainEntry
  /-- DRAIN_COMPLETE (R484): Every BUSY reads 0, so the block enters the drain's destination. -/
  | drainComplete
  /-- WATCH_ENTRY_COMPLETE (R487): After the sinters restore, the field clocks and timebase stop and the sleep count starts. -/
  | watchEntryComplete
  /-- WAKE (R390): The fumarole's wake powers fields, restarts the clocks, makes up the counters and ramps the fields. -/
  | wake (ticks : Nat)
  /-- SELFTEST_COMPLETE (R488): The March test and clear end, STRESULT is set and the block enters CONFIG. -/
  | selftestComplete
  /-- FREEZE_WRITE (R548): A write to DBG.FREEZE freezes or thaws fields, the governor and the steward. -/
  | freezeWrite (m : Master) (c : BCell)
  /-- HOLD_ENTRY (R486): At the next BCLK edge after the timebase freeze the block enters HOLD. -/
  | holdEntry
  /-- HOLD_EXIT (R486): At the next BCLK edge after the thaw the block leaves HOLD. -/
  | holdExit
  /-- HALTALL_HALT (R542): A HALTALL write with REL = 0 sets HALT in every engine of the fields in FMASK. -/
  | haltallHalt (m : Master) (c : BCell)
  /-- HALTALL_RELEASE (R542): A HALTALL write with REL = 1 clears HALT in every engine of the fields in FMASK. -/
  | haltallRelease (m : Master) (c : BCell)
  /-- DBG_RESET_WARM (R491): A DBG.RESET write with ACTION 1 starts a warm reset. -/
  | dbgResetWarm (m : Master)
  /-- DBG_RESET_COLD (R491): A DBG.RESET write with ACTION 2 starts a cold reset. -/
  | dbgResetCold (m : Master)
  /-- DBGCTL_HALT (R536): Writing HALT = 1 requests a halt of the engine. -/
  | dbgctlHalt (m : Master) (e : Nat) (c : BCell)
  /-- DBGCTL_RELEASE (R538): Writing HALT = 0 releases the engine at DBGPC and DBGCTX. -/
  | dbgctlRelease (m : Master) (e : Nat) (c : BCell)
  /-- DBGCTL_FORCE (R537): Writing FORCE halts the engine even inside a locked sequence, which breaks it. -/
  | dbgctlForce (m : Master) (e : Nat) (c : BCell)
  /-- DBGCTL_STEP (R539): Writing STEP runs one step of a halted engine and halts it again. -/
  | dbgctlStep (m : Master) (e : Nat) (c : BCell)
  /-- ENGINE_HALT (R536): The engine halts at an instruction boundary, sets HALTED and raises source 486. -/
  | engineHalt (e : Nat)
  /-- STIM_WRITE (R550): A write to STIMn sends a KIND 6 packet on an enabled port. -/
  | stimWrite (m : Master) (f n : Nat) (c : BCell)
  /-- TRACE_PACKET_SEND (R552): The oldest trace packet leaves on the TRACE port in two beats. -/
  | tracePacketSend
  /-- TRACE_FRAME_SEND (R552): With 8 packets gathered, or the oldest 256 SCLK cycles old, a TRACE frame is sent. -/
  | traceFrameSend
  /-- PCTL_LRESET (R441): A write of LRESET empties the patch staging buffer. -/
  | pctlLreset (m : Master)
  /-- PLOAD_WRITE (R441): A write to PLOAD appends a record cell to the staging buffer. -/
  | ploadWrite (m : Master) (c : BCell)
  /-- PCTL_INSTALL (R441): A write of INSTALL starts the check and installation of the staged record. -/
  | pctlInstall (m : Master)
  /-- PATCH_INSTALL_COMPLETE (R441): The installer finishes with a RESULT and on OK replaces the patch set. -/
  | patchInstallComplete
  /-- IDCODE_CAPTURE (R525): The TAP captures the IDCODE register. -/
  | idcodeCapture
  /-- DSTAT_CAPTURE (R526): The TAP captures the debug status. -/
  | dstatCapture
  /-- CHAL_CAPTURE (R528): A CHAL capture reads the key and issues a new challenge. -/
  | chalCapture (tck : BitVec 36) (fusePresent : Bool) (key : List (BitVec 15))
  /-- RESP_UPDATE (R529): An update of RESP checks the HMAC response and sets LEVEL, or counts a failure. -/
  | respUpdate (q : BitVec 8) (r : BitVec 112)
  /-- ACC_READ (R531): An ACC update with OP 1 reads the cell at ADDR. -/
  | accRead (a : Nat)
  /-- ACC_WRITE (R531): An ACC update with OP 2 writes the cell at ADDR. -/
  | accWrite (a : Nat) (c : BCell)
  /-- ACC_READ_NEXT (R531): An ACC update with OP 3 reads at the held address plus one. -/
  | accReadNext
  /-- ACC_WRITE_NEXT (R531): An ACC update with OP 4 writes at the held address plus one. -/
  | accWriteNext (c : BCell)
  /-- ACC_NOP (R531): An ACC update with OP 0 or 5–7 launches nothing. -/
  | accNop (op : BitVec 3)
  /-- ACC_CAPTURE (R532): An ACC capture returns the result, address and data of the previous operation. -/
  | accCapture
  /-- ACC_COMPLETE (R532): A debug access completes after its crossings and records its RESULT. -/
  | accComplete
  /-- STEWARD_TAKE_PACKET (R451): The steward takes a complete packet alternately from CMDIN and the frame queue. -/
  | stewardTakePacket
  /-- CMD_FORWARD (R454): With REMOTE set, a complete CMDIN packet is sent as a CMD frame. -/
  | cmdForward
  /-- PING (R459): PING echoes its parameters. -/
  | ping
  /-- IDENT (R459): IDENT returns 10 identification cells. -/
  | ident
  /-- READ (R462): READ returns count cells from an address range. -/
  | read
  /-- WRITE (R462): WRITE stores data cells at consecutive addresses. -/
  | write
  /-- FILL (R462): FILL writes one value over an address range. -/
  | fill
  /-- MODE (R481): MODE requests a mode transition and replies with BLK.MODE. -/
  | mode
  /-- STATUS (R459): STATUS returns 40 cells laid out as a STATUS frame. -/
  | status
  /-- LOADSET (R463): LOADSET writes data into the inactive set of one kind. -/
  | loadset
  /-- SWAPSET (R464): SWAPSET schedules the swap of the named kinds at slot k. -/
  | swapset
  /-- CHANNEL_MAP_SWAP (R143): MSEL inverts at the release of slot k. -/
  | channelMapSwap (f : Nat)
  /-- GAIN_PAGE_SWAP (R143): GSEL inverts at the release of slot k. -/
  | gainPageSwap (f : Nat)
  /-- WINDOW_TABLE_SWAP (R159): WSEL inverts at the release of slot k. -/
  | windowTableSwap (f : Nat)
  /-- ROUTE_TABLE_SWAP (R124): RSEL inverts when the fabric processes slot k. -/
  | routeTableSwap
  /-- SAFEDEC_SWAP (R50): SDSET changes for the decisions of slot k and later. -/
  | safedecSwap (f : Nat)
  /-- ENGINE_STOP (R468): ENGINE action 0 writes RUN = 0 and completes when the engine stops. -/
  | engineStop
  /-- ENGINE_START (R468): ENGINE action 1 writes RUN = 1. -/
  | engineStart
  /-- ENGINE_CTXRD (R468): ENGINE action 2 reads a context register through CTXWIN. -/
  | engineCtxrd
  /-- ENGINE_CTXWR (R468): ENGINE action 3 writes a context register through CTXWIN. -/
  | engineCtxwr
  /-- ROUTE (R467): ROUTE writes consecutive route-table or member entries. -/
  | route
  /-- PATCH_LRESET (R469): PATCH action 0 empties the staging buffer. -/
  | patchLreset
  /-- PATCH_APPEND (R469): PATCH action 1 appends record cells to PLOAD. -/
  | patchAppend
  /-- PATCH_INSTALL (R469): PATCH action 2 starts installation and replies per PSTAT.RESULT. -/
  | patchInstall
  /-- CALRD (R469): CALRD returns CAL.STAT and a range of CAL values. -/
  | calrd
  /-- CALWR (R469): CALWR writes CAL values and returns those it replaced. -/
  | calwr
  /-- CLEAR (R470): CLEAR cancels pending swaps, clears W1C bits or clears the STW counters, as its mask selects. -/
  | clear
  /-- RESTORE (R466): RESTORE checks an image and applies its records. -/
  | restore
  /-- EVENT (R471): EVENT raises doorbells locally or sends them in DOORBELL frames. -/
  | event
  /-- COUNTERS (R472): COUNTERS returns a group of RC registers, with or without clearing. -/
  | counters
  /-- DEFERRED_DONE (R455): A deferred command completes and sends its DONE or failure reply. -/
  | deferredDone (i : Nat)
  /-- DEFERRED_TIMEOUT (R457): A deferred command past DLIM is stopped and replies TIMEOUT. -/
  | deferredTimeout (i : Nat)
  /-- NOP (R224): No operation. -/
  | nop (e : Nat)
  /-- DUP (R224): Duplicates the top cell. -/
  | dup (e : Nat)
  /-- DROP (R224): Drops the top cell. -/
  | drop (e : Nat)
  /-- SWAP (R224): Swaps the top two cells. -/
  | swap (e : Nat)
  /-- OVER (R224): Copies the second cell to the top. -/
  | overSyl (e : Nat)
  /-- ROT (R224): Rotates the top three cells. -/
  | rot (e : Nat)
  /-- NIP (R224): Drops the second cell. -/
  | nip (e : Nat)
  /-- TUCK (R224): Copies the top cell below the second. -/
  | tuck (e : Nat)
  /-- DUP2 (R224): Duplicates the top pair. -/
  | dup2 (e : Nat)
  /-- DROP2 (R224): Drops the top pair. -/
  | drop2 (e : Nat)
  /-- TOR (R224): Moves a cell to the return stack. -/
  | tor (e : Nat)
  /-- FROMR (R224): Moves a cell from the return stack. -/
  | fromr (e : Nat)
  /-- RFETCH (R224): Copies the top return cell to the data stack. -/
  | rfetch (e : Nat)
  /-- PICK (R224): Copies cell n to the top, reading it in place when it is spilled. -/
  | pick (e : Nat)
  /-- DEPTH (R224): Pushes the data-stack depth. -/
  | depth (e : Nat)
  /-- RDROP (R224): Drops the top return cell. -/
  | rdrop (e : Nat)
  /-- ADD (R257): Adds, writing C and V. -/
  | add (e : Nat)
  /-- SUB (R257): Subtracts, with C the borrow. -/
  | sub (e : Nat)
  /-- ADC (R257): Adds with carry. -/
  | adc (e : Nat)
  /-- SBC (R257): Subtracts with borrow. -/
  | sbc (e : Nat)
  /-- AND (R225): Bitwise AND. -/
  | and (e : Nat)
  /-- OR (R225): Bitwise OR. -/
  | or (e : Nat)
  /-- XOR (R225): Bitwise XOR. -/
  | xor (e : Nat)
  /-- NOT (R225): Bitwise complement. -/
  | not (e : Nat)
  /-- NEG (R257): Negates, writing V. -/
  | neg (e : Nat)
  /-- INC (R257): Increments, writing V. -/
  | inc (e : Nat)
  /-- DEC (R257): Decrements, writing V. -/
  | dec (e : Nat)
  /-- SHL (R226): Shifts left by n. -/
  | shl (e : Nat)
  /-- SHR (R226): Shifts right logically by n. -/
  | shr (e : Nat)
  /-- SAR (R226): Shifts right arithmetically by n. -/
  | sar (e : Nat)
  /-- ROL (R225): Rotates left by n mod 14. -/
  | rol (e : Nat)
  /-- ROR (R225): Rotates right by n mod 14. -/
  | ror (e : Nat)
  /-- SHL1 (R225): Shifts left by 1. -/
  | shl1 (e : Nat)
  /-- SHR1 (R225): Shifts right by 1. -/
  | shr1 (e : Nat)
  /-- EQ (R225): Equality flag. -/
  | eq (e : Nat)
  /-- LT (R225): Signed less-than flag. -/
  | lt (e : Nat)
  /-- ULT (R225): Unsigned less-than flag. -/
  | ult (e : Nat)
  /-- GT (R225): Signed greater-than flag. -/
  | gt (e : Nat)
  /-- ZEQ (R225): Zero-test flag. -/
  | zeq (e : Nat)
  /-- MIN (R225): Signed minimum. -/
  | min (e : Nat)
  /-- MAX (R225): Signed maximum. -/
  | max (e : Nat)
  /-- ABS (R257): Absolute value, writing V. -/
  | abs (e : Nat)
  /-- SATADD (R257): Saturating signed add. -/
  | satadd (e : Nat)
  /-- SATSUB (R257): Saturating signed subtract. -/
  | satsub (e : Nat)
  /-- CLZ (R225): Counts leading zeros. -/
  | clz (e : Nat)
  /-- POPC (R225): Counts ones. -/
  | popc (e : Nat)
  /-- MULLO (R257): Low cell of the signed product, writing V. -/
  | mullo (e : Nat)
  /-- SEXT7 (R225): Sign-extends bits 6:0. -/
  | sext7 (e : Nat)
  /-- LD (R227): Loads the cell at an address. -/
  | ld (e : Nat)
  /-- ST (R227): Stores a cell at an address. -/
  | st (e : Nat)
  /-- LDI (R227): Loads and advances the address. -/
  | ldi (e : Nat)
  /-- STI (R227): Stores and advances the address. -/
  | sti (e : Nat)
  /-- LDP (R69): Loads a pair from one instant. -/
  | ldp (e : Nat)
  /-- STP (R227): Stores a pair. -/
  | stp (e : Nat)
  /-- LDV (R227): Loads the cell at b + i. -/
  | ldv (e : Nat)
  /-- PLUSST (R227): Adds n to the cell at an address, not atomically. -/
  | plusst (e : Nat)
  /-- LDC (R228): Loads from the own code store. -/
  | ldc (e : Nat)
  /-- STC (R228): Stores into the own code store, at kernel level only. -/
  | stc (e : Nat)
  /-- BITSET (R227): Sets bit n of a cell. -/
  | bitset (e : Nat)
  /-- BITCLR (R227): Clears bit n of a cell. -/
  | bitclr (e : Nat)
  /-- XCHG (R229): Atomic exchange. -/
  | xchg (e : Nat)
  /-- LOCK (R230): Opens a locked sequence over up to 8 cells. -/
  | lock (e : Nat)
  /-- CAS (R229): Atomic compare and swap, which ends a locked sequence. -/
  | cas (e : Nat)
  /-- PREF (R228): Prefetch hint. -/
  | pref (e : Nat)
  /-- BR (R236): Branches to the inline target. -/
  | br (e : Nat)
  /-- BZ (R236): Branches when the popped value is zero. -/
  | bz (e : Nat)
  /-- BNZ (R236): Branches when the popped value is nonzero. -/
  | bnz (e : Nat)
  /-- CALL (R237): Calls the inline target. -/
  | call (e : Nat)
  /-- RET (R236): Returns to the popped address. -/
  | ret (e : Nat)
  /-- JMPS (R236): Jumps to the popped target. -/
  | jmps (e : Nat)
  /-- CALLS (R237): Calls the popped target. -/
  | calls (e : Nat)
  /-- LOOP (R237): Counted loop on the return stack. -/
  | loop (e : Nat)
  /-- SBR (R219): Short branch. -/
  | sbr (e : Nat)
  /-- SBZ (R219): Short branch when zero. -/
  | sbz (e : Nat)
  /-- SBNZ (R219): Short branch when nonzero. -/
  | sbnz (e : Nat)
  /-- RETE (R357): Returns from a trap in FE or from an event frame in C1–C3. -/
  | rete (e : Nat)
  /-- TRAP (R205): Software trap with cause 18. -/
  | trap (e : Nat)
  /-- SLEEP (R238): Sleeps until the request line asserts. -/
  | sleep (e : Nat)
  /-- YIELD (R238): Ends the context's turn. -/
  | yield (e : Nat)
  /-- HALT (R238): Clears RUN, at kernel level only. -/
  | halt (e : Nat)
  /-- MUL (R260): Signed product as a pair. -/
  | mul (e : Nat)
  /-- MULU (R260): Unsigned product as a pair. -/
  | mulu (e : Nat)
  /-- DIV (R261): Signed division. -/
  | div (e : Nat)
  /-- DIVU (R261): Unsigned division. -/
  | divu (e : Nat)
  /-- DADD (R271): Decimal add. -/
  | dadd (e : Nat)
  /-- DSUB (R271): Decimal subtract. -/
  | dsub (e : Nat)
  /-- FADD (R276): Float add. -/
  | fadd (e : Nat)
  /-- FSUB (R276): Float subtract. -/
  | fsub (e : Nat)
  /-- FMUL (R276): Float multiply. -/
  | fmul (e : Nat)
  /-- FDIV (R276): Float divide. -/
  | fdiv (e : Nat)
  /-- FSQRT (R276): Float square root. -/
  | fsqrt (e : Nat)
  /-- FCMP (R283): Float compare. -/
  | fcmp (e : Nat)
  /-- FTOI (R284): Float to integer. -/
  | ftoi (e : Nat)
  /-- ITOF (R284): Integer to float. -/
  | itof (e : Nat)
  /-- FMIN (R283): Float minimum. -/
  | fmin (e : Nat)
  /-- FMAX (R283): Float maximum. -/
  | fmax (e : Nat)
  /-- SMALL_LITERAL (R241): Pushes a small literal from −4 to 11. -/
  | smallLiteral (e : Nat)
  /-- LIT (R216): Pushes the inline cell. -/
  | lit (e : Nat)
  /-- LIT2 (R216): Pushes two inline cells. -/
  | lit2 (e : Nat)
  /-- SYNC (R242): Waits until earlier writes take effect. -/
  | sync (e : Nat)
  /-- ISYNC (R243): Syncs and refetches the prefetch buffer. -/
  | isync (e : Nat)
  /-- MFC (R210): Reads an engine or context register. -/
  | mfc (e : Nat)
  /-- MTC (R210): Writes an engine or context register. -/
  | mtc (e : Nat)
  /-- FLD (R241): Moves a cell to the float stack. -/
  | fld (e : Nat)
  /-- FST (R241): Moves a float entry to the data stack. -/
  | fst (e : Nat)
  /-- FDUP (R241): Duplicates the top float entry. -/
  | fdup (e : Nat)
  /-- FDROP (R241): Drops the top float entry. -/
  | fdrop (e : Nat)
  /-- FSWAP (R241): Swaps the top float entries. -/
  | fswap (e : Nat)
  /-- DBGBRK (R540): Debug break, which halts the engine or takes trap 19. -/
  | dbgbrk (e : Nat)
  /-- STIM (R244): Stimulus write to a trace port. -/
  | stim (e : Nat)
  /-- ILLEGAL (R254): Always takes the illegal-instruction trap. -/
  | illegal (e : Nat)
  /-- LDM (R247): Loads multiple cells by mask, restartably. -/
  | ldm (e : Nat)
  /-- STM (R248): Stores multiple cells by mask, restartably. -/
  | stm (e : Nat)
  /-- MOVB (R249): Block copy, restartable. -/
  | movb (e : Nat)
  /-- DSADD (R272): Decimal string add. -/
  | dsadd (e : Nat)
  /-- DSSUB (R272): Decimal string subtract. -/
  | dssub (e : Nat)
  /-- EVCLAIM (R246): Claims from the engine's own EVCLAIMk. -/
  | evclaim (e : Nat)
  /-- EVDONE (R246): Completes through the engine's own EVDONEk. -/
  | evdone (e : Nat)
  /-- SETVIEW (R197): Writes VIEWn. -/
  | setview (e : Nat)
  /-- GETVIEW (R246): Reads VIEWn. -/
  | getview (e : Nat)
  /-- CTXRD (R210): Reads a register of any context. -/
  | ctxrd (e : Nat)
  /-- CTXWR (R212): Writes a register of any context. -/
  | ctxwr (e : Nat)
  /-- SETRM (R246): Sets the rounding mode. -/
  | setrm (e : Nat)
  /-- CYCLES (R246): Pushes the cycle count from one instant. -/
  | cycles (e : Nat)
  /-- PTEST (R204): Tests the poison of the top cell. -/
  | ptest (e : Nat)
  /-- PCLR (R204): Clears the poison of the top cell, and in C0 the slot-poison flag. -/
  | pclr (e : Nat)
  /-- SLOTEND (R251): Waits for C0's writes and ends the slot program. -/
  | slotend (e : Nat)
  /-- COMPAND (R252): Encodes a value as a compander code. -/
  | compand (e : Nat)
  /-- EXPAND (R252): Decodes a compander code. -/
  | expand (e : Nat)
  /-- CRCSTEP (R253): Advances a 14-bit CRC. -/
  | crcstep (e : Nat)
  /-- BITREV (R246): Reverses the bits of a cell. -/
  | bitrev (e : Nat)
  /-- PARITY (R246): Pushes the parity of a cell. -/
  | parity (e : Nat)
  /-- FWIDEN (R285): Converts CF14 to TF28. -/
  | fwiden (e : Nat)
  /-- FNARROW (R285): Converts TF28 to CF14. -/
  | fnarrow (e : Nat)
  /-- WORD_OUTSIDE_FRAME (R92): A link word received outside any frame (an idle word, a stray payload or trailer word, or a word of a reserved KIND) is skipped or discarded, sets FRAMERR where R92 says, returns the CREDIT of a stray trailer, resets the link's silence judgement and breaks a training run. -/
  | wordOutsideFrame (l : Nat) (w : BitVec 64)
  /-- BADTYPE_FRAME (R96): A received frame of type 12 to 31 is accepted by no role, is neither delivered nor forwarded, and is counted in FAB.BADTYPE. -/
  | badtypeFrame (l : Nat) (w : WireFrame)
  /-- TRAINING_WORDS_SENT (R115): An output-role link in TRAIN that has sent TRAINN + 4 × TAIL training words goes UP, raises its kind-0 source and may then send frames. -/
  | trainingWordsSent (l : Nat)
  /-- IDLE_CYCLE (R373): In each field cycle with no running context, an engine debits class 24 from the ledger and LEDSTARVE counts the cycle when a starved context runs nothing, which can take the balance to the floor and raise source 456. -/
  | idleCycle (e : Nat)
  /-- UPDATE_IR (R524): Update-IR of the TAP (or Test-Logic-Reset) selects the instruction that decides which data register later captures and updates act on, with unlisted values selecting BYPASS. -/
  | updateIr (ir : BitVec 5)
deriving DecidableEq, Repr

end Sys2Proof
end

