-- ==== Sys2Proof/Config.lean ====
section
/-! DEFINITION. What the licensed design fixes and the manual does not state (R5, R7, R426, R440, R477, R525), and the free
values: constants with no body, so that no proof can rest on a value of theirs. -/

namespace Sys2Proof.Config

/-- BLK.CONFIG.STEP, the design step of the licensed netlist (R7). -/
opaque step : BitVec 5
/-- MC.ROMID, the identifier of the control-store ROM content (R426, R444). -/
opaque romId : BitVec 14
/-- MC.KEYID, the identifier of the patch public key (R440, R444). -/
opaque keyId : BitVec 14
/-- STW.VERSION, the steward ROM revision (R477). -/
opaque version : BitVec 14
/-- The manufacturer code of IDCODE bits 11:1 (R525). -/
opaque manufacturer : BitVec 11
/-- The patch public key, 32 bytes as RFC 8032 numbers them (R440). -/
opaque patchKey : List (BitVec 8)
/-- FREE VALUE: the n-th mask or count that a restartable operation uses after software wrote MPROG while MIP was 1
(R209: an undefined transfer). -/
opaque freeProgress : Nat → BitVec 28
/-- FREE VALUE: the microword at a micro address, without its parity bit (R426, R428: the ROM's content is not given). -/
opaque microWord : Nat → BitVec 20
/-- FREE VALUE: the nano-word at a nano address (R426, R429: the ROM's content is not given). -/
opaque nanoWord : Nat → BitVec 96
/-- FREE VALUE: where the hardware sequences start, above 0x600: spill, fill, context switch, trap entry, event entry and dispatch by
number (R427: the ROM fixes them). -/
opaque sequenceAt : Nat → BitVec 9
/-- FREE VALUE: the condition pair that COND selects in the n-th run of a routine with k steps to go (R430: the conditions' encodings
belong to the ROM). -/
opaque freeCond : Nat → Nat → Nat
/-- FREE VALUE: the rounding mode that a float long-op issued between SETRM and the SYNC it requires uses (R268). -/
opaque freeRounding : Nat → Bool
/-- FREE VALUE: the n-th cell that the manual gives a place and no content: cells 2 and 3 of an overflow packet, which no field
originates (R549, R551), and the cells that a reply, STATUS or peer frame too short for what it announces lacks (R139, R453). -/
opaque freeCell : Nat → BitVec 14
/-- FREE VALUE: whether two accesses to one word that the n-th such meeting of a port-A and a port-B write brings together fall in one
field cycle (R400): the model has no cycles. -/
opaque sameCycle : Nat → Bool
/-- FREE VALUE: by how much SLEEPLO has counted on when the n-th event looks at it in WATCH (R362): the model has no SLOWCLK. -/
opaque freeSleep : Nat → Nat
/-- FREE VALUE: whether a command of the steward that has to wait cannot complete within the bound of R455, the n-th time that it waits:
the model has no governor clock of its own. -/
opaque overBound : Nat → Bool
/-- FREE VALUE: the cycles that the n-th command took an engine, which E.CYCLO counts (R213): the model has no cycles. -/
opaque freeCycles : Nat → BitVec 28

end Sys2Proof.Config
end

