-- ==== Sys2Proof/Machine/State.lean ====
section
/-! DEFINITION. The state of the block as plain data: everything spec/ gives the machine, unit by unit, and the queue of
waiting commands. Registers stand in ONE sparse list keyed by block address (the field tables of the manual give their cold
values, Machine/RegMap.lean); memory words, 20 bits with their check code (R407), in another. What the tables show live
(BUSY, LINE, STATE ...) is computed when it is read, so each fact has one home. -/

namespace Sys2Proof.Machine

/-- The licensed configuration (R3, R5, R7): SIZE 0, 1, 2 for Puaro 16, 32, 64, and NCOMP as BLK.CONFIG reports it. -/
structure Cfg where
  size : Nat
  ncomp : Nat
deriving DecidableEq, Repr

/-- The tag of a slot boundary as the timebase launches it (R25, R61, R82, R482). `seq` numbers the launched boundaries
(the model's own count: it orders slots whose numbers a resynchronisation moved). -/
structure Tag where
  slot : BitVec 14
  sweep : BitVec 28
  nolock : Bool
  sweepStart : Bool
  seq : Nat
  sps : Nat
  relF : BitVec 8
  relT : BitVec 4
deriving DecidableEq, Repr

/-- A decision on its way to the DEC port (R51): field, slot, code, and whether SAFEDEC was substituted. -/
structure DecItem where
  f : Nat
  seq : Nat
  slot : BitVec 14
  code : BitVec 7
  subst : Bool
deriving DecidableEq, Repr

/-- The DEC outputs (R51, R517). -/
structure DecOut where
  valid : Bool
  slot : BitVec 14
  code : BitVec 7
  p : Bool
deriving DecidableEq, Repr

/-- The timebase island (chapter 2). `spsEff` is the effective slots per sweep (R57); `run` and `first` are the run of
conforming markers and whether the first marker of this stay in ACQUIRE is still to come (R64); `misses` the consecutive
misses (R66); `gwait` the boundaries left to a pending global release with its masks (R82); `hist` the sweep at which each
slot number was last launched since cold reset (R103); `decq` the decisions received for the DEC port. -/
structure Tb where
  slot : BitVec 14
  sweep : BitVec 28
  runtime : BitVec 28
  spsEff : Nat
  seq : Nat
  lastMark : Bool
  run : Nat
  first : Bool
  misses : Nat
  gwait : Option (Nat × BitVec 8 × BitVec 4)
  capRd : List Nat
  hist : KMap (BitVec 28)
  decq : List DecItem
  dec : DecOut
deriving DecidableEq, Repr

/-- The states of an event source (R341). -/
inductive SrcSt where
  | idle | accum | pending | active
deriving DecidableEq, Repr

/-- One event source (R341): its state, raise count R, age G, REPEND flag and claimer. -/
structure Src where
  st : SrcSt
  r : Nat
  g : Nat
  repend : Bool
  claimer : Nat
deriving DecidableEq, Repr

/-- A clean enabled window of the working copy of one slot, with its count and sum (R155, R157, R160). -/
structure Win where
  w : Nat
  u0 : Nat
  u1 : Nat
  v0 : Nat
  v1 : Nat
  grp : Nat
  umask : Nat
  neg : Bool
  mse : Nat
  mincnt : Nat
  msm : Nat
  cnt : Nat
  sum : Nat
deriving DecidableEq, Repr

/-- How a slot was settled: the decision cell sent, and R101's reason (0 none, 1 overrun, 2 poison, 3 no decision). -/
structure Settle where
  cell : BitVec 14
  reason : Nat
deriving DecidableEq, Repr

/-- A decided slot of a field, from its release to its emission (chapters 1, 4, 5). The selectors and the intake registers
are those in force when its release began (R143, R153, R157). `peer` is the peer entry's item count, cell count and OVF
(R139), none with PEEREN = 0; `sd` the SAFEDEC set (R50). -/
structure SlotRec where
  seq : Nat
  slot : BitVec 14
  sweep : BitVec 14
  nolock : Bool
  ridx : Nat
  member : Option Nat
  n : Nat
  wsel : Bool
  msel : Bool
  gsel : Bool
  mapctl : BitVec 14
  zs : BitVec 14
  masks : List Nat
  wins : List Win
  maj : List Nat
  wpois : Bool
  hits : Nat
  pois : Bool
  closed : Bool
  dispatched : Bool
  marked : Bool
  decision : Option (BitVec 14)
  prims : List BCell
  peer : Option (Nat × Nat × Bool)
  sd : Bool
  settled : Option Settle
deriving DecidableEq, Repr

/-- A frame held in a field's alignment buffer (R131, R137): link, TAG, frame type, and its words. -/
structure AFrame where
  link : Nat
  tag : BitVec 14
  typ : Nat
  hdr : BitVec 56
  pay : List (BitVec 64)
deriving DecidableEq, Repr

/-- A sample or hit on its way through the mapper (R145): channel, amplitude, P, user flags, and which kind it is. -/
structure Sample where
  ch : Nat
  amp : BitVec 14
  p : Bool
  u : Nat
  hit : Bool
deriving DecidableEq, Repr

/-- A border copy on its way from a neighbour field (R151, R152). -/
structure Border where
  seq : Nat
  tile : Nat
  out : Int
  u : Nat
deriving DecidableEq, Repr

/-- The suspect-interval state of one link of a field (R134): g, the slot that an open interval starts at (its boundary's
`seq` as the timebase counts them), and that slot's number. -/
structure Susp where
  g : Option (BitVec 14)
  opened : Option (Int × BitVec 14)
deriving DecidableEq, Repr

/-- The sinter scan of a field (R418 to R424): the block in hand, the phase (0 seeking, 1 copy, 2 March, 3 restore), the
step within it, the shadow, whether a write cancelled the March, whether a fault was found, and the attempts made. -/
structure Sinter where
  block : Nat
  phase : Nat
  stp : Nat
  shadow : List BCell
  cancelled : Bool
  faulted : Bool
  tries : Nat
deriving DecidableEq, Repr

/-- A linked data watch (R546): the engine and context that armed it and the syllables left. -/
structure DwLink where
  eng : Nat
  ctx : Nat
  left : Nat
deriving DecidableEq, Repr

/-- A trace packet of four cells (R549). -/
structure TPacket where
  c0 : BCell
  c1 : BCell
  c2 : BCell
  c3 : BCell
deriving DecidableEq, Repr

/-- The power of a field (R494, R506, R507): off, coming up (PSW_REQ raised), clearing in its field-wake reset, or on. -/
inductive Pwr where
  | off | rising | waking | on
deriving DecidableEq, Repr

/-- A safe-load swap request tagged with its slot k (R464): kind 0 to 4, the slot and sweep of k, the number of the SWAPSET that
sent it, and whether it has reached its unit (R470; log entry 40). -/
structure Swap where
  kind : Nat
  slot : BitVec 14
  sweep : BitVec 14
  id : Nat
  reached : Bool
deriving DecidableEq, Repr

/-- What fails its parity check in a field's control stores (R426, R434): micro addresses, nano addresses, and entries of its copy of the
patch set. A fault of the hardware, as plain data; none at reset. -/
structure CtrlFaults where
  micro : List Nat
  nano : List Nat
  entry : List Nat
deriving DecidableEq, Repr

def CtrlFaults.none : CtrlFaults := { micro := [], nano := [], entry := [] }

/-- A field island. `bq` holds the launched boundaries it has not processed, `due` the raises tagged with one of
them (by its `seq`, with the source, R338), `cur` the last boundary it has processed, `tags` the recent ones;
`fenEff` says whether FEN is in effect, `fenDrop` whether a clearing of it waits for its boundary, and `k0` since which boundary (R28, R578); `pipe` the decided slots not yet emitted,
oldest first; `marks` and `cause` the poison marks and first causes by slot number (R132, R133); `noted` the intake sources
already raised in this slot; `pos` the rotation position (R28), with `posWarm` while ROTPOS.ENG stands at its warm value (R52); `ridx` the next ring index (R174); `lines` the request lines
as last computed (R343); `pre` the timer prescalers (R77); `caused` the first cause of the slot of each number dispatched last (R133).
`fclk` is the number of field cycles in a slot, which the host's clocks give (R499; log entry 107); `wrec` and `wpeer` are the record
cells and peer-entry cells that the writer has still to write, each with its slot and offset (R140, R166); `lastA` is the last port-A
write, and `lastB` the writer's cells of this slot, that a write of the other port may meet in one field cycle (R400; log entry 108);
`mpos` is the next word of the maintenance pass (R424); `floorCyc` says that LEDFLOORCNT has counted the present field cycle (R372); `ctrl` are
the faults of its control stores (R434). -/
structure Field where
  pwr : Pwr
  clk : Bool
  clearing : Bool
  bq : List Tag
  due : List (Nat × Nat)
  cur : Tag
  tags : List Tag
  fenEff : Bool
  fenDrop : Bool
  k0 : Nat
  pos : Nat
  posWarm : Bool
  ridx : Nat
  pipe : List SlotRec
  abuf : List AFrame
  marks : KMap Nat
  cause : KMap Nat
  noted : List Nat
  susp : KMap Susp
  relq : List (List Sample)
  fifo : List Sample
  border : List Border
  swaps : List Swap
  pre : List Nat
  srcs : KMap Src
  lines : List Bool
  bal : Int
  rem : Nat
  esp : Nat
  rate : Nat
  esusp : Bool
  floorSlot : Bool
  kUsed : Nat
  emod : Nat
  step : Nat
  code : Nat
  hot : Nat
  bucket : Nat
  leak : Nat
  wback : Option (Nat × BitVec 14)
  sinter : Sinter
  bad : List (Nat × BitVec 20)
  dwl : List (Option DwLink)
  stimq : List TPacket
  caused : KMap Nat
  fclk : Nat
  wrec : List (Nat × Nat × BCell)
  wpeer : List (Nat × Nat × BCell)
  lastA : Option (Nat × BCell)
  lastB : List (Nat × Nat × BCell)
  mpos : Nat
  floorCyc : Bool
  ctrl : CtrlFaults
deriving DecidableEq, Repr

/-- One context of an engine (R181, R187): PC and the syllable to issue next, PS, the spill registers, the views, FSTATUS,
STATE (0 IDLE, 1 READY, 2 SLEEP), SPOIS, MIP, MPROG (`mfree`: software wrote it while MIP was 1, R209), the cells left of a
group that a spill has begun on each stack (R190), the rounding mode that a SETRM not yet followed by SYNC replaced (R268), and the
stack caches with the top cell first. -/
structure Ctx where
  pc : BitVec 28
  sylb : Bool
  ps : BitVec 14
  dsp : BitVec 28
  dbase : BitVec 28
  dlim : BitVec 28
  rsp : BitVec 28
  rbase : BitVec 28
  rlim : BitVec 28
  views : List (BitVec 28)
  fstatus : BitVec 14
  state : Nat
  spois : Bool
  mip : Bool
  mprog : BitVec 28
  mfree : Bool
  dgrp : Nat
  rgrp : Nat
  rmOld : Option Nat
  data : List SCell
  ret : List SCell
deriving DecidableEq, Repr

/-- A store-buffer entry (R301): the words it writes, one or two (R325, R512), each with its block address, and, for a store
by C0 to DECISION or PRIMQ, the slot it belongs to (R47). -/
structure SBuf where
  ws : List (Nat × BCell)
  seq : Option Nat
  ctx : Nat
deriving DecidableEq, Repr

/-- What a long operation writes when it completes (R239, R305): the results for its pending data places, deepest first,
and float places; the PS flags it sets and clears; and the FSTATUS flags it raises. `hold`: it holds the unit for its full cycle
count (R304); `float`: it is a float operation (R306). -/
structure LOp where
  ctx : Nat
  res : List (BitVec 28 × Bool)
  fres : List (BitVec 28 × Bool)
  psMask : BitVec 14
  psVal : BitVec 14
  fl : BitVec 14
  hold : Bool
  float : Bool
deriving DecidableEq, Repr

/-- A locked sequence (R230 to R233): its context, its block addresses, the cells it may still store, the syllables
committed, and whether it is broken. -/
structure LockSt where
  ctx : Nat
  addrs : List Nat
  n : Nat
  stored : Nat
  syls : Nat
  broken : Bool
deriving DecidableEq, Repr

/-- A cell of the prefetch buffer (R201, R243): its engine address, the cell as fetched, and whether it has issued since, so
that its fetch is counted. -/
structure PfCell where
  a : BitVec 28
  c : BCell
  seen : Bool
deriving DecidableEq, Repr

/-- An event entry that has begun and waits for its spills (R351, R354): its context, whether that context was running, and its PS at
the sampled boundary. -/
structure Entry where
  ctx : Nat
  ran : Bool
  ps : BitVec 14
deriving DecidableEq, Repr

/-- An engine (chapter 6, 10). Contexts 0 to 3 are C0 to C3 and 4 is FE; `run` is the running context. `locks` holds at most
one sequence per context. `slot` is the slot (by seq) that C0 holds from dispatch until its end; `abandFE` records that C0 was
abandoned while FE handled its trap (R208). `pairB`: syllable A of a cell has committed and B issues in the same cycle
(R294). `turnOver`: the running context has ended its turn; `lastRan` is the one that ran last (R369). `dlHeld` are the
expiries that a debug halt holds back (R541). `cyc` is the cycle counter (R213). `half` is the half selector of a twin pair's
CTXDATA (R329). `hmNeed` is the number of host-window cells that the running syllable waits for, and `hmGot` those that have
come (R512). `stepping` and `skipCmp` serve debug (R538, R539). `ctxq` are the writes to the executing context's registers that wait for
the end of its instruction (R212), `entry` an event entry in progress, `coast` whether RUN was cleared before a boundary that the engine has still to reach (R213, R214), and `owed` the ledger classes that the cell in issue owes for its
fetch (R373). -/
structure Engine where
  ctxs : Fixed Ctx 5
  run : Option Nat
  fst : List SCell
  tpc : BitVec 28
  tps : BitVec 14
  tinfo : BitVec 28
  dfpc : BitVec 28
  sbuf : List SBuf
  pf : List PfCell
  lops : List LOp
  locks : List LockSt
  slot : Option Nat
  mchk : Bool
  halted : Bool
  haltReq : Option Nat
  stepping : Bool
  skipCmp : Bool
  abandFE : Bool
  pairB : Bool
  turnOver : Bool
  lastRan : Nat
  dlDone : List Bool
  prom : List Bool
  dlHeld : List Bool
  last : List Nat
  espFrac : Nat
  cyc : BitVec 28
  half : Option (Bool × BitVec 28 × Bool)
  hmNeed : Nat
  hmGot : List BCell
  ctxq : List (Nat × BitVec 28 × Bool)
  entry : Option Entry
  coast : Bool
  owed : List Nat
deriving DecidableEq, Repr

/-- A frame inside the block (R93): its type, addresses, tag and hop count, broadcast flag, and payload bodies with P; `hold` names
the link whose receive buffer holds its words and their number there (R112). -/
structure Frame where
  typ : Nat
  dest : BitVec 16
  src : BitVec 16
  tag : BitVec 14
  hop : Nat
  bc : Bool
  pay : List (BitVec 56 × Bool)
  hold : Option (Nat × Nat) := none
deriving DecidableEq, Repr

/-- A received frame whose trailer has still to come (R92, R116): its words so far, and, on a fabric link, the route that its
header found (R124). -/
structure Part where
  frame : WireFrame
  port : Option (Option Nat)
deriving DecidableEq, Repr

/-- A link port (chapter 3). `st` 0 DOWN, 1 TRAIN, 2 UP, 3 FAULT; `phase` 0 SEEK, 1 HEARD, 2 READY; `run` the run of good
training words; `fresh` whether this stay in TRAIN has measured no word; `exp` the expected SEQ; `txseq` the next SEQ sent;
`owed` the credits owed; `quiet` the boundaries since the last word (5 in a DOWN link that words take back to TRAIN); `txq`
the frames waiting; `lastTx` the last frame sent with its SEQ and CREDIT; `part` the frame that is open (R116); `rbuf` the received
frames still in the receive buffer, by number, with their words, and `rxn` the next number (R112); `tail` whether the READY words
after UP are still to be sent (R115). -/
structure Link where
  st : Nat
  phase : Nat
  run : Nat
  fresh : Bool
  exp : Option (BitVec 14)
  txseq : BitVec 14
  owed : Nat
  quiet : Nat
  txq : List Frame
  lastTx : Option (Frame × BitVec 14 × Nat)
  part : Option Part
  rbuf : List (Nat × Nat)
  rxn : Nat
  tail : Bool
deriving DecidableEq, Repr

/-- A command packet with where it came from (R445, R450): the cells, the link and hop of its CMD frame and its source, and whether a
CMD frame brought it (one that the block addressed to itself came over no link); and how far the steward has come with it (R455 to
R457): its number, the cells it asked of the host window, those read so far with the reason of each, the cells written, and whether it
has been answered ACCEPTED. -/
structure Cmd where
  cells : List BCell
  link : Option (Nat × Nat)
  src : BitVec 16
  frame : Bool := false
  num : Nat := 0
  want : Nat := 0
  got : List (BCell × Nat) := []
  made : Nat := 0
  late : Bool := false
deriving DecidableEq, Repr

/-- A deferred command (R455, R456): the packet, what it waits for, and the swap it names. -/
structure Deferred where
  cmd : Cmd
  op : Nat
  goal : Nat
  data : List BCell
deriving DecidableEq, Repr

/-- The steward (chapter 15): the command FIFO, the reply FIFO, the frame queue, which path it takes from next, the packet
in hand, the deferred commands, local replies that wait for room, and the number of the next command. -/
structure Stw where
  cmdin : List BCell
  cmdout : List BCell
  fq : List Cmd
  fromFrame : Bool
  cur : Option Cmd
  defer : List Deferred
  waiting : List (List BCell)
  cmdNum : Nat
deriving DecidableEq, Repr

/-- An access on the host master port (R512, R513): its master, address, direction, the cells of a write, whether it is of two
cells, whether the engine that asked no longer waits for it, and the context of an engine's access. -/
structure HmReq where
  m : Master
  a : Nat
  wr : Bool
  cells : List BCell
  two : Bool
  dead : Bool
  ctx : Nat := 0
deriving DecidableEq, Repr

/-- The response of the host target port (R508). -/
structure HtRsp where
  a : BCell
  b : BCell
  err : Nat
deriving DecidableEq, Repr

/-- The host ports (chapter 17): the accesses of the master port, oldest first, of which the first 8 are outstanding; the
responses of the target port that the last command gave, in order; how many responses to come on the master port are to be
discarded; and the target requests accepted during a warm reset and not yet made. -/
structure HostP where
  hm : List HmReq
  rsp : List HtRsp
  drop : Nat
  htq : List (Nat × Bool × Option (BCell × BCell))
deriving DecidableEq, Repr

/-- The debug access register (R531, R532): the held address, the last result and its cell, and an access not complete. -/
structure Acc where
  addr : Nat
  result : Nat
  cell : BCell
  pend : Option (Nat × BCell)
  busy : Bool
deriving DecidableEq, Repr

/-- The TAP and the data registers it captured last (R524 to R532). -/
structure Tap where
  ir : BitVec 5
  acc : Acc
  dr : BitVec 120
deriving DecidableEq, Repr

/-- The authentication state of the debug island (R526 to R530): LEVEL, FAILS, LOCKOUT, BARRED, NOKEY, the key as read, the
challenge counter and the outstanding challenge. -/
structure Auth where
  level : Nat
  fails : Nat
  lockout : Bool
  barred : Bool
  nokey : Bool
  key : Option (BitVec 256)
  ctr : BitVec 48
  chal : Option (BitVec 112)
deriving DecidableEq, Repr

/-- The trace path (R549 to R552): the queue, the packets gathered for a TRACE frame, the count of an open overflow, and the
last packet on the TRACE port. -/
structure Trace where
  q : List TPacket
  gather : List TPacket
  ovf : Nat
  out : Option (TPacket)
deriving DecidableEq, Repr

/-- A patch entry and a match register (R437, R438). -/
structure Patch where
  entries : List (List (BitVec 14))
  mregs : List (Bool × Nat × Nat)
deriving DecidableEq, Repr

/-- The MC unit (chapter 14): the staging buffer, the installed set, and an installation in progress. -/
structure Mc where
  stage : List BCell
  patch : Patch
  busy : Bool
deriving DecidableEq, Repr

/-- The governor (chapter 12): `tick` counts the ticks of the present K window, `emeas` sums ISENSE × ISCALE in sixteenths of an
EU, and `isen` is the ISEN in force in it (R380). -/
structure Gov where
  tick : Nat
  emeas : Nat
  isen : Bool
deriving DecidableEq, Repr

/-- Block mode (chapter 16): the drain's destination and whether its boundary is still to come, a warm reset in progress, what
COLD still waits for, KILL_N low and a KILL_N taken in COLD, the mode HOLD was entered from, a WATCH entry in progress, a wake
requested and whether the watch list asked for it, the slow ticks of the last WATCH stay, a clear of the route tables in
progress, OFF, and whether the core is without power while OFF (R478, R525: no command of the table switches it). -/
structure Md where
  drainTo : Option Nat
  drainWait : Bool
  warm : Bool
  fuseWait : Bool
  clearWait : Bool
  killLow : Bool
  killPend : Bool
  holdFrom : Nat
  watchEntry : Bool
  wakeReq : Bool
  sleep : Nat
  fabClear : Bool
  byList : Bool
  off : Bool
  dark : Bool
deriving DecidableEq, Repr

/-- The whole block but for the authentication state and the queue of commands. `free` counts the free values used; `stuck` lists, by
address, the bits of memories other than field memory that a fault of the hardware holds at 0 (none in a sound block). -/
structure Blk where
  cfg : Cfg
  regs : KMap (BitVec 14)
  mem : KMap (BitVec 20)
  latch : KMap (BitVec 14)
  tb : Tb
  fields : Fixed Field 8
  engines : Fixed Engine 64
  links : Fixed Link 96
  stw : Stw
  host : HostP
  tap : Tap
  auth : Auth
  trace : Trace
  mc : Mc
  gov : Gov
  md : Md
  fabSwap : Option Swap
  statCnt : Nat
  pswReq : BitVec 8
  replay : List (Nat × Nat)
  free : Nat
  stuck : List (Nat × BitVec 20)
deriving DecidableEq, Repr

/-- The state: the block, and the commands that wait, first in, first out. -/
structure State where
  blk : Blk
  pending : List Instr
deriving DecidableEq, Repr

/-- Why the machine stops with a fault. No meaning of this model raises one: the spec gives every command of the table an
effect, and where an event's condition does not hold nothing happens (log entry 2). -/
inductive Fault where
  /-- Raised by nobody: kept so that the outcome type is complete. Safe. -/
  | none
deriving DecidableEq, Repr

/-- Why a command is refused. -/
inductive Refusal where
  /-- Raised by the dispatcher alone, for a row of the table that has no meaning yet. Safe. -/
  | notModelled (mnemonic : String)
deriving DecidableEq, Repr

/-- The tag no boundary has carried yet. -/
def Tag.zero : Tag :=
  { slot := 0, sweep := 0, nolock := false, sweepStart := false, seq := 0, sps := 2, relF := 0, relT := 0 }

/-- The timebase in COLD (R62): slot, sweep and RUNTIME 0, SPS 2. -/
def Tb.cold : Tb :=
  { slot := 0, sweep := 0, runtime := 0, spsEff := 2, seq := 0, lastMark := false, run := 0, first := true, misses := 0,
    gwait := none, capRd := [], hist := [], decq := [],
    dec := { valid := false, slot := 0, code := 0, p := false } }

def Sinter.cold : Sinter :=
  { block := 0, phase := 0, stp := 0, shadow := [], cancelled := false, faulted := false, tries := 0 }

/-- A field after a cold or field-wake reset, its memories being cleared (R410, R490). -/
def Field.cold : Field :=
  { pwr := .on, clk := true, clearing := true, bq := [], due := [], cur := Tag.zero, tags := [], fenEff := false, fenDrop := false, k0 := 0,
    pos := 0, posWarm := false, ridx := 0, pipe := [], abuf := [], marks := [], cause := [], noted := [], susp := [], relq := [],
    fifo := [], border := [], swaps := [], pre := [0, 0, 0, 0], srcs := [], lines := List.replicate 8 false, bal := 0,
    rem := 0, esp := 0, rate := 0, esusp := false, floorSlot := false, kUsed := 1208, emod := 0, step := 0, code := 0,
    hot := 0, bucket := 0, leak := 0, wback := none, sinter := Sinter.cold, bad := [], dwl := [none, none], stimq := [],
    caused := [], fclk := 24, wrec := [], wpeer := [], lastA := none, lastB := [], mpos := 0, floorCyc := false, ctrl := CtrlFaults.none }

/-- A context after a cold reset (R182). -/
def Ctx.cold : Ctx :=
  { pc := 0, sylb := false, ps := 0, dsp := 0, dbase := 0, dlim := 0, rsp := 0, rbase := 0, rlim := 0,
    views := [0, 0, 0, 0], fstatus := 0, state := 0, spois := false, mip := false, mprog := 0, mfree := false,
    dgrp := 0, rgrp := 0, rmOld := none, data := [], ret := [] }

/-- FE after a cold reset: PS reads with K = 1 (R182, R183). -/
def Ctx.coldFE : Ctx := { Ctx.cold with ps := 0x2000 }

/-- An engine after a cold reset (R182, R213): no context runs. -/
def Engine.cold : Engine :=
  { ctxs := ⟨[Ctx.cold, Ctx.cold, Ctx.cold, Ctx.cold, Ctx.coldFE], rfl⟩, run := none, fst := [], tpc := 0, tps := 0, tinfo := 0,
    dfpc := 0, sbuf := [], pf := [], lops := [], locks := [], slot := none, mchk := false, halted := false,
    haltReq := none, stepping := false, skipCmp := false, abandFE := false, pairB := false, turnOver := false, lastRan := 3,
    dlDone := [true, true, true], prom := [false, false, false], dlHeld := [false, false, false], last := [0, 0, 0, 0],
    espFrac := 0, cyc := 0, half := none, hmNeed := 0, hmGot := [], ctxq := [], entry := none, coast := false, owed := [] }

/-- A link after a cold reset: DOWN (R490). -/
def Link.cold : Link :=
  { st := 0, phase := 0, run := 0, fresh := true, exp := none, txseq := 0, owed := 0, quiet := 0, txq := [],
    lastTx := none, part := none, rbuf := [], rxn := 0, tail := false }

def Stw.cold : Stw :=
  { cmdin := [], cmdout := [], fq := [], fromFrame := false, cur := none, defer := [], waiting := [], cmdNum := 0 }

def HostP.cold : HostP := { hm := [], rsp := [], drop := 0, htq := [] }

/-- The debug island after DPOR_N (R524, R528, R553): IDCODE selected, LEVEL 0, no challenge outstanding. -/
def Tap.dpor : Tap :=
  { ir := 1, acc := { addr := 0, result := 0, cell := { v := 0, p := false }, pend := none, busy := false }, dr := 0 }

/-- The authentication state after DPOR_N (R529, R553): LEVEL 0, FAILS 0, no lockout, the challenge counter at 1. -/
def Auth.dpor : Auth :=
  { level := 0, fails := 0, lockout := false, barred := false, nokey := false, key := none, ctr := 1, chal := none }

def Trace.empty : Trace := { q := [], gather := [], ovf := 0, out := none }

/-- No patch installed (R442). -/
def Patch.none : Patch := { entries := [], mregs := [] }

def Mc.cold : Mc := { stage := [], patch := Patch.none, busy := false }

def Gov.cold : Gov := { tick := 0, emeas := 0, isen := false }

/-- The mode state in COLD just after PORESET_N is released: the clear and the fuse load are in progress (R481, R492). -/
def Md.cold : Md :=
  { drainTo := none, drainWait := false, warm := false, fuseWait := true, clearWait := true, killLow := false,
    killPend := false, holdFrom := 0, watchEntry := false, wakeReq := false, sleep := 0,
    fabClear := true, byList := false, off := false, dark := false }

/-- `n` equal entries. -/
def Fixed.same {α : Type} {n : Nat} (x : α) : Fixed α n := ⟨List.replicate n x, List.length_replicate⟩

/-- The block just after PORESET_N is released and DPOR_N was applied: mode COLD, every register at its cold value
(nothing listed), no memory word listed (all-zero words, R410). Configuration: Puaro 64 with 5 comparators (log entry 1). -/
def Blk.reset : Blk :=
  { cfg := { size := 2, ncomp := 4 }, regs := [(0x0F00005, 0x0001)], mem := [], latch := [], tb := Tb.cold,
    fields := Fixed.same Field.cold, engines := Fixed.same Engine.cold, links := Fixed.same Link.cold,
    stw := Stw.cold, host := HostP.cold, tap := Tap.dpor, auth := Auth.dpor, trace := Trace.empty, mc := Mc.cold,
    gov := Gov.cold, md := Md.cold, fabSwap := none, statCnt := 0, pswReq := 0xFF, replay := [],
    free := 0, stuck := [] }

/-- The machine right after reset: no command waits. -/
def State.reset : State := { blk := Blk.reset, pending := [] }

end Sys2Proof.Machine
end

