-- ==== Sys2Proof/Machine/Ops.lean ====
section
/-! DEFINITION. The named operations over the state: sparse lists in canonical form, bit fields, addresses, and the accessors
of the units. -/

namespace Sys2Proof.Machine

/-! Sparse lists. -/

/-- What key `k` reads as: its entry, or `d` when nothing is listed. -/
def kget {α : Type} (d : α) : KMap α → Nat → α
  | [], _ => d
  | (a, x) :: m, k => if k = a then x else kget d m k

/-- Insert or replace the entry of `k`, keeping the keys rising. -/
def kput {α : Type} : KMap α → Nat → α → KMap α
  | [], k, v => [(k, v)]
  | (a, x) :: m, k, v =>
    if k < a then (k, v) :: (a, x) :: m
    else if k = a then (k, v) :: m
    else (a, x) :: kput m k v

/-- Remove the entry of `k`. -/
def kdel {α : Type} (m : KMap α) (k : Nat) : KMap α := m.filter (fun e => e.1 != k)

/-- Write `v` at `k` where an unlisted `k` reads as `d`: the entry goes when `v` is `d`. -/
def kset {α : Type} [DecidableEq α] (d : α) (m : KMap α) (k : Nat) (v : α) : KMap α :=
  if v = d then kdel m k else kput m k v

/-- The keys of a list rise strictly. -/
def rising {α : Type} : KMap α → Bool
  | [] => true
  | [_] => true
  | (a, _) :: (b, y) :: m => (decide (a < b)) && rising ((b, y) :: m)

/-- The canonical form: keys strictly rising, no entry equal to what its key reads as when unlisted. -/
def canonical {α : Type} [DecidableEq α] (d : Nat → α) (m : KMap α) : Bool :=
  rising m && m.all (fun e => decide (e.2 ≠ d e.1))

/-- Remove every entry whose key lies in [lo, hi). -/
def kclear {α : Type} (m : KMap α) (lo hi : Nat) : KMap α := m.filter (fun e => !(decide (lo ≤ e.1 ∧ e.1 < hi)))

/-! Lists by index. -/

def upd {α : Type} (f : α → α) : List α → Nat → List α
  | [], _ => []
  | x :: xs, 0 => f x :: xs
  | x :: xs, n + 1 => x :: upd f xs n

def nth {α : Type} (d : α) : List α → Nat → α
  | [], _ => d
  | x :: _, 0 => x
  | _ :: xs, n + 1 => nth d xs n

theorem upd_length {α : Type} (f : α → α) (l : List α) (i : Nat) : (upd f l i).length = l.length := by
  induction l generalizing i with
  | nil => rfl
  | cons x xs ih => cases i <;> simp [upd, ih]

/-- Entry i of a fixed list, or `d` where there is none; an update of entry i; and an update of every entry. -/
def getAt {α : Type} {n : Nat} (d : α) (l : Fixed α n) (i : Nat) : α := nth d l.1 i
def setAt {α : Type} {n : Nat} (f : α → α) (l : Fixed α n) (i : Nat) : Fixed α n :=
  ⟨upd f l.1 i, (upd_length f l.1 i).trans l.2⟩
def mapAll {α β : Type} {n : Nat} (f : α → β) (l : Fixed α n) : Fixed β n := ⟨l.1.map f, (List.length_map f).trans l.2⟩

/-- Fold an update over a list of arguments. -/
def each {α σ : Type} (f : α → σ → σ) : List α → σ → σ
  | [], s => s
  | x :: xs, s => each f xs (f x s)

/-- Apply an update `n` times. -/
def times {σ : Type} (f : σ → σ) : Nat → σ → σ
  | 0, s => s
  | n + 1, s => times f n (f s)

/-! Bit fields of a 14-bit cell, as numbers. -/

/-- Bits lo + w − 1 : lo of a cell. -/
def fld {n : Nat} (v : BitVec n) (lo w : Nat) : Nat := (v.toNat >>> lo) % 2 ^ w

/-- Bit i of a cell. -/
def bit {n : Nat} (v : BitVec n) (i : Nat) : Bool := v.getLsbD i

/-- The cell with bits lo + w − 1 : lo replaced by `x`. -/
def putf (v : BitVec 14) (lo w x : Nat) : BitVec 14 :=
  (v &&& ~~~ (BitVec.ofNat 14 (2 ^ w - 1) <<< lo)) ||| (BitVec.ofNat 14 (x % 2 ^ w) <<< lo)

/-- The cell with bit i set to `x`. -/
def putb (v : BitVec 14) (i : Nat) (x : Bool) : BitVec 14 := putf v i 1 (if x then 1 else 0)

/-- A Bool as a cell. -/
def b2c (x : Bool) : BitVec 14 := if x then 1 else 0

def b2n (x : Bool) : Nat := if x then 1 else 0

/-- Bits 13:0 and 27:14 of a 28-bit value (R10). -/
def lo14 (v : BitVec 28) : BitVec 14 := v.extractLsb' 0 14
def hi14 (v : BitVec 28) : BitVec 14 := v.extractLsb' 14 14
/-- A pair from its low and high cell (R10). -/
def pair (lo hi : BitVec 14) : BitVec 28 := hi ++ lo

/-- A clean cell, and the cell that absent, powered-off and unassigned addresses deliver (R6, R494, R558). -/
def clean (v : BitVec 14) : BCell := { v := v, p := false }
def cleanN (n : Nat) : BCell := clean (BitVec.ofNat 14 n)
def absentCell : BCell := { v := 0, p := true }

/-- Sum of a list of numbers. -/
def sumN : List Nat → Nat
  | [] => 0
  | x :: xs => x + sumN xs

/-- The length in bits of a number (R108, R262): the position of its highest set bit plus one, 0 for 0. -/
def bitlen (n : Nat) : Nat := if n = 0 then 0 else n.log2 + 1

/-! Block addresses (R557). -/

def aB (off : Nat) : Nat := 0x0F00000 + off
def aF (f off : Nat) : Nat := 0x0F10000 + f * 0x1000 + off
def aE (e off : Nat) : Nat := 0x0F20000 + e * 0x40 + off
def aL (l off : Nat) : Nat := 0x0F30000 + l * 0x10 + off

/-! Numbers of units (R3). -/

def nFields (b : Blk) : Nat := if b.cfg.size = 0 then 2 else if b.cfg.size = 1 then 4 else 8
def nEngines (b : Blk) : Nat := 8 * nFields b
def nLinks (b : Blk) : Nat := 12 * nFields b

/-- ECCWB: Puaro 16 and 32 write correctable errors back (R4, R7, R413). -/
def eccwb (b : Blk) : Bool := decide (b.cfg.size < 2)

/-! Units. -/

def fieldOf (b : Blk) (f : Nat) : Field := getAt Field.cold b.fields f
def engOf (b : Blk) (e : Nat) : Engine := getAt Engine.cold b.engines e
def linkOf (b : Blk) (l : Nat) : Link := getAt Link.cold b.links l
def ctxOf (b : Blk) (e c : Nat) : Ctx := getAt Ctx.cold (engOf b e).ctxs c

def onField (f : Nat) (g : Field → Field) (b : Blk) : Blk := { b with fields := setAt g b.fields f }
def onEng (e : Nat) (g : Engine → Engine) (b : Blk) : Blk := { b with engines := setAt g b.engines e }
def onLink (l : Nat) (g : Link → Link) (b : Blk) : Blk := { b with links := setAt g b.links l }
def onCtx (e c : Nat) (g : Ctx → Ctx) (b : Blk) : Blk := onEng e (fun x => { x with ctxs := setAt g x.ctxs c }) b
def onTb (g : Tb → Tb) (b : Blk) : Blk := { b with tb := g b.tb }
def onStw (g : Stw → Stw) (b : Blk) : Blk := { b with stw := g b.stw }
def onMd (g : Md → Md) (b : Blk) : Blk := { b with md := g b.md }
def onGov (g : Gov → Gov) (b : Blk) : Blk := { b with gov := g b.gov }
def onHost (g : HostP → HostP) (b : Blk) : Blk := { b with host := g b.host }
def onTrace (g : Trace → Trace) (b : Blk) : Blk := { b with trace := g b.trace }
def onMc (g : Mc → Mc) (b : Blk) : Blk := { b with mc := g b.mc }

/-- A free value's number, and the block with that number used. -/
def takeFree (b : Blk) : Nat × Blk := (b.free, { b with free := b.free + 1 })

/-! Small shared tests. -/

/-- Field f is present and powered with its field-wake reset complete (R494, R507). -/
def powered (b : Blk) (f : Nat) : Bool := decide (f < nFields b) && decide ((fieldOf b f).pwr = .on)

/-- Field f is powered and its clock runs. -/
def clocked (b : Blk) (f : Nat) : Bool := powered b f && (fieldOf b f).clk

/-- Local engine k of field f is the odd engine of a joined pair (R317, R330). `jm` is TWINMAP. -/
def isOddOf (jm : BitVec 14) (k : Nat) : Bool := decide (k % 2 = 1) && bit jm (k / 2)

/-! Locked sequences (R230 to R234). -/

/-- The sequence open in context c of engine e. -/
def lockOf (b : Blk) (e c : Nat) : Option LockSt := (engOf b e).locks.find? (fun k => decide (k.ctx = c))

/-- Engine e holds a locked sequence: one is open and not broken (R231, R233). -/
def lockHeld (b : Blk) (e : Nat) : Bool := (engOf b e).locks.any (fun k => !k.broken)

/-- The sequence that engine e holds breaks; the sequence of context c ends. -/
def breakLock (e : Nat) (b : Blk) : Blk :=
  onEng e (fun x => { x with locks := x.locks.map (fun k => { k with broken := true }) }) b
def endLock (e c : Nat) (b : Blk) : Blk :=
  onEng e (fun x => { x with locks := x.locks.filter (fun k => decide (k.ctx ≠ c)) }) b

/-- Block address a lies in a range held by engine e. -/
def heldBy (b : Blk) (e a : Nat) : Bool := (engOf b e).locks.any (fun k => !k.broken && k.addrs.contains a)

/-- Block address a lies in a range held by an engine other than `but`. -/
def heldByOther (b : Blk) (but a : Nat) : Bool :=
  let f := but / 8
  (List.range 8).any (fun k => decide (8 * f + k ≠ but) && heldBy b (8 * f + k) a)

/-- Block address a lies in a range held by any engine. -/
def heldByAny (b : Blk) (a : Nat) : Bool := (List.range 8).any (fun k => heldBy b (8 * (a / 0x10000) + k) a)

/-- Every sequence that holds block address a breaks. -/
def breakHolders (a : Nat) (b : Blk) : Blk :=
  each (fun k b => if heldBy b (8 * (a / 0x10000) + k) a then breakLock (8 * (a / 0x10000) + k) b else b) (List.range 8) b

/-! How a command's effect becomes its meaning. -/

/-- The state with another block, its queue as it was. -/
def State.put (s : State) (b : Blk) : State := { s with blk := b }

/-- The block after an effect, the authentication state as it was. -/
def keepAuth (f : Blk → Blk) (b : Blk) : Blk := { f b with auth := b.auth }

/-- A command with effect `f`: while PORESET_N is asserted nothing happens (R501), and no command of this kind touches the
authentication state, which stands in the debug island (R524, R526). -/
def run (f : Blk → Blk) (s : State) : Host.Outcome State Fault Refusal :=
  .next (s.put (if s.blk.md.off then s.blk else keepAuth f s.blk))

/-- A command of the reset pins or of the debug island, which acts whether or not PORESET_N is asserted. -/
def runPin (f : Blk → Blk) (s : State) : Host.Outcome State Fault Refusal :=
  .next (s.put (keepAuth f s.blk))

/-- One of the four commands that act on the authentication state (R526 to R530, R553). -/
def runAuth (f : Blk → Blk) (s : State) : Host.Outcome State Fault Refusal := .next (s.put (f s.blk))

end Sys2Proof.Machine
end

