-- ==== Sys2Proof/Machine/RegMap.lean ====
section
/-! DEFINITION. The register tables: for each stored register its offset, the bits that a write stores (RW), the bits that a
write of 1 clears (W1C), whether a read clears it (RC), its cold value, and what a warm reset keeps and sets (R15 to R17, and
the field tables that each table's comment names). A register that the tables show live has no stored bits for what it shows:
Machine/Bus.lean computes them. -/

namespace Sys2Proof.Machine

/-- One row: `n` registers at `off`, `off + st` and so on. -/
structure RegD where
  off : Nat
  n : Nat
  st : Nat
  rw : BitVec 14
  w1c : BitVec 14
  cold : BitVec 14
  keep : BitVec 14
  warm : BitVec 14
  rc : Bool
deriving DecidableEq, Repr

/-- BLK registers (R476, R495, R522). -/
def blkRegs : List RegD :=
    [⟨0x000, 1, 1, 0x0, 0x0, 0x1, 0x3FFF, 0x0, false⟩, -- MODE
     ⟨0x003, 1, 1, 0x0, 0x3, 0x0, 0x0, 0x0, false⟩, -- MODESTAT
     ⟨0x004, 1, 1, 0x3, 0x0, 0x0, 0x3FFF, 0x0, false⟩, -- MODECTL
     ⟨0x005, 1, 1, 0x0, 0x7F, 0x0, 0x3FFF, 0x0, false⟩, -- RSTCAUSE
     ⟨0x007, 1, 1, 0xFF, 0x0, 0xFF, 0x3FFF, 0x0, false⟩, -- FPWR
     ⟨0x009, 1, 1, 0x0, 0x0, 0x0, 0x3FFF, 0x0, false⟩, -- FUSESTAT
     ⟨0x00A, 1, 1, 0x0, 0x0, 0x0, 0x3FFF, 0x0, false⟩, -- STRESULT
     ⟨0x012, 1, 1, 0x0, 0x2000, 0x0, 0x0, 0x0, false⟩, -- CMDSTAT
     ⟨0x019, 1, 1, 0x0, 0xF, 0x0, 0x3FFF, 0x0, false⟩, -- HOSTBELL
     ⟨0x01B, 1, 1, 0x0, 0x7, 0x0, 0x0, 0x0, false⟩, -- HPSTAT
     ⟨0x01C, 4, 1, 0x3FFF, 0x0, 0x0, 0x3FFF, 0x0, false⟩, -- IRQENj
     ⟨0x020, 1, 1, 0x3FFF, 0x0, 0x64, 0x3FFF, 0x0, false⟩] -- HMTO
    ++
    [⟨0x021, 1, 1, 0x0, 0x0, 0x0, 0x0, 0x0, true⟩] -- HMERRCNT

/-- TB registers (R86). -/
def tbRegs : List RegD :=
    [⟨0x040, 1, 1, 0x0, 0x0, 0x0, 0x0, 0x0, false⟩, -- CTL
     ⟨0x041, 1, 1, 0x0, 0xFC, 0x0, 0x13C, 0x0, false⟩, -- STAT
     ⟨0x042, 1, 1, 0x3FFF, 0x0, 0x2, 0x3FFF, 0x0, false⟩, -- SPS
     ⟨0x043, 1, 1, 0x3FFF, 0x0, 0x0, 0x3FFF, 0x0, false⟩, -- MARKOFS
     ⟨0x044, 1, 1, 0x3FF, 0x0, 0xC4, 0x3FFF, 0x0, false⟩, -- LOCK
     ⟨0x04A, 4, 1, 0x3FFF, 0x0, 0x0, 0x3FFF, 0x0, false⟩, -- SWPRELO to SLOWRATIOHI
     ⟨0x04E, 2, 1, 0x0, 0x0, 0x0, 0x0, 0x0, true⟩, -- MISSCNT, ACQCNT
     ⟨0x051, 2, 1, 0x0, 0x0, 0x0, 0x3FFF, 0x0, false⟩, -- GSLOT, GSWEEP
     ⟨0x060, 8, 4, 0x0, 0x0, 0x0, 0x3FFF, 0x0, false⟩, -- CAPkSLOT
     ⟨0x061, 8, 4, 0x0, 0x0, 0x0, 0x3FFF, 0x0, false⟩, -- CAPkSWLO
     ⟨0x062, 8, 4, 0x0, 0x0, 0x0, 0x3FFF, 0x0, false⟩, -- CAPkSWHI
     ⟨0x063, 8, 4, 0xC, 0x2, 0x0, 0xC, 0x0, false⟩] -- CAPkSTAT

/-- GOV registers (R392). -/
def govRegs : List RegD :=
    [⟨0x0C0, 1, 1, 0x1, 0x0, 0x0, 0x3FFF, 0x0, false⟩, -- CTL
     ⟨0x0C1, 1, 1, 0x0, 0x2F, 0x0, 0x21, 0x0, false⟩, -- STAT
     ⟨0x0C2, 2, 1, 0x3FFF, 0x0, 0x3FFF, 0x3FFF, 0x0, false⟩, -- BUDGETLO, BUDGETHI
     ⟨0x0C4, 1, 1, 0x7F, 0x0, 0x12, 0x3FFF, 0x0, false⟩, -- MARGIN
     ⟨0x0C5, 1, 1, 0xFF, 0x0, 0x69, 0x3FFF, 0x0, false⟩, -- TKNEE
     ⟨0x0C6, 1, 1, 0xFF, 0x0, 0x96, 0x3FFF, 0x0, false⟩, -- TCRIT
     ⟨0x0C7, 1, 1, 0x3FF, 0x0, 0xFA, 0x3FFF, 0x0, false⟩, -- USCLK
     ⟨0x0C8, 1, 1, 0xFF, 0x0, 0x4, 0x3FFF, 0x0, false⟩, -- RAMPSTEP
     ⟨0x0C9, 1, 1, 0x0, 0x0, 0x4B8, 0x3FFF, 0x0, false⟩, -- KCUR
     ⟨0x0D0, 8, 1, 0xFF, 0x0, 0x20, 0x3FFF, 0x0, false⟩, -- SHAREf
     ⟨0x0D8, 8, 1, 0xF0, 0x0, 0x0, 0x3FFF, 0x0, false⟩, -- LEVELf
     ⟨0x0E1, 1, 1, 0xFF, 0x0, 0xF0, 0x3FFF, 0x0, false⟩] -- DER1
    ++
    [⟨0x0E2, 1, 1, 0xFF, 0x0, 0xE0, 0x3FFF, 0x0, false⟩, -- DER2
     ⟨0x0E3, 1, 1, 0xFF, 0x0, 0xD0, 0x3FFF, 0x0, false⟩, -- DER3
     ⟨0x0E4, 1, 1, 0xFF, 0x0, 0xC0, 0x3FFF, 0x0, false⟩, -- DER4
     ⟨0x0E5, 1, 1, 0xFF, 0x0, 0xB0, 0x3FFF, 0x0, false⟩, -- DER5
     ⟨0x0E6, 1, 1, 0xFF, 0x0, 0xA0, 0x3FFF, 0x0, false⟩, -- DER6
     ⟨0x0E7, 1, 1, 0xFF, 0x0, 0x90, 0x3FFF, 0x0, false⟩, -- DER7
     ⟨0x0E8, 1, 1, 0xFF, 0x0, 0x80, 0x3FFF, 0x0, false⟩, -- DER8
     ⟨0x0E9, 1, 1, 0xFF, 0x0, 0x70, 0x3FFF, 0x0, false⟩, -- DER9
     ⟨0x0EA, 1, 1, 0xFF, 0x0, 0x60, 0x3FFF, 0x0, false⟩, -- DER10
     ⟨0x0EB, 1, 1, 0xFF, 0x0, 0x50, 0x3FFF, 0x0, false⟩, -- DER11
     ⟨0x0EC, 1, 1, 0xFF, 0x0, 0x40, 0x3FFF, 0x0, false⟩, -- DER12
     ⟨0x0ED, 1, 1, 0xFF, 0x0, 0x30, 0x3FFF, 0x0, false⟩] -- DER13
    ++
    [⟨0x0EE, 1, 1, 0xFF, 0x0, 0x20, 0x3FFF, 0x0, false⟩, -- DER14
     ⟨0x0EF, 1, 1, 0xFF, 0x0, 0x10, 0x3FFF, 0x0, false⟩] -- DER15

/-- CAL registers; the generic defaults of R373 stand until the fuse load (R393). -/
def calRegs : List RegD :=
    [⟨0x100, 1, 1, 0x3FFF, 0x0, 0x60, 0x3FFF, 0x0, false⟩, -- COST0
     ⟨0x101, 1, 1, 0x3FFF, 0x0, 0x80, 0x3FFF, 0x0, false⟩, -- COST1
     ⟨0x102, 1, 1, 0x3FFF, 0x0, 0x50, 0x3FFF, 0x0, false⟩, -- COST2
     ⟨0x103, 1, 1, 0x3FFF, 0x0, 0xE0, 0x3FFF, 0x0, false⟩, -- COST3
     ⟨0x104, 1, 1, 0x3FFF, 0x0, 0xD0, 0x3FFF, 0x0, false⟩, -- COST4
     ⟨0x105, 1, 1, 0x3FFF, 0x0, 0xA0, 0x3FFF, 0x0, false⟩, -- COST5
     ⟨0x106, 1, 1, 0x3FFF, 0x0, 0x100, 0x3FFF, 0x0, false⟩, -- COST6
     ⟨0x107, 1, 1, 0x3FFF, 0x0, 0x160, 0x3FFF, 0x0, false⟩, -- COST7
     ⟨0x108, 1, 1, 0x3FFF, 0x0, 0x60, 0x3FFF, 0x0, false⟩, -- COST8
     ⟨0x109, 1, 1, 0x3FFF, 0x0, 0x90, 0x3FFF, 0x0, false⟩, -- COST9
     ⟨0x10A, 1, 1, 0x3FFF, 0x0, 0x70, 0x3FFF, 0x0, false⟩, -- COST10
     ⟨0x10B, 1, 1, 0x3FFF, 0x0, 0x60, 0x3FFF, 0x0, false⟩] -- COST11
    ++
    [⟨0x10C, 1, 1, 0x3FFF, 0x0, 0x140, 0x3FFF, 0x0, false⟩, -- COST12
     ⟨0x10D, 1, 1, 0x3FFF, 0x0, 0xA0, 0x3FFF, 0x0, false⟩, -- COST13
     ⟨0x10E, 1, 1, 0x3FFF, 0x0, 0xC0, 0x3FFF, 0x0, false⟩, -- COST14
     ⟨0x10F, 1, 1, 0x3FFF, 0x0, 0x120, 0x3FFF, 0x0, false⟩, -- COST15
     ⟨0x110, 1, 1, 0x3FFF, 0x0, 0x180, 0x3FFF, 0x0, false⟩, -- COST16
     ⟨0x111, 1, 1, 0x3FFF, 0x0, 0xE0, 0x3FFF, 0x0, false⟩, -- COST17
     ⟨0x112, 1, 1, 0x3FFF, 0x0, 0xF0, 0x3FFF, 0x0, false⟩, -- COST18
     ⟨0x113, 1, 1, 0x3FFF, 0x0, 0x100, 0x3FFF, 0x0, false⟩, -- COST19
     ⟨0x114, 1, 1, 0x3FFF, 0x0, 0xE0, 0x3FFF, 0x0, false⟩, -- COST20
     ⟨0x115, 1, 1, 0x3FFF, 0x0, 0x1E0, 0x3FFF, 0x0, false⟩, -- COST21
     ⟨0x116, 1, 1, 0x3FFF, 0x0, 0x190, 0x3FFF, 0x0, false⟩, -- COST22
     ⟨0x117, 1, 1, 0x3FFF, 0x0, 0x30, 0x3FFF, 0x0, false⟩] -- COST23
    ++
    [⟨0x118, 1, 1, 0x3FFF, 0x0, 0x10, 0x3FFF, 0x0, false⟩, -- COST24
     ⟨0x119, 1, 1, 0x3FFF, 0x0, 0x40, 0x3FFF, 0x0, false⟩, -- COST25
     ⟨0x11A, 1, 1, 0x3FFF, 0x0, 0x0, 0x3FFF, 0x0, false⟩, -- COST26
     ⟨0x11B, 1, 1, 0x3FFF, 0x0, 0x0, 0x3FFF, 0x0, false⟩, -- COST27
     ⟨0x11C, 1, 1, 0x3FFF, 0x0, 0x0, 0x3FFF, 0x0, false⟩, -- COST28
     ⟨0x11D, 1, 1, 0x3FFF, 0x0, 0x0, 0x3FFF, 0x0, false⟩, -- COST29
     ⟨0x11E, 1, 1, 0x3FFF, 0x0, 0x0, 0x3FFF, 0x0, false⟩, -- COST30
     ⟨0x11F, 1, 1, 0x3FFF, 0x0, 0x0, 0x3FFF, 0x0, false⟩, -- COST31
     ⟨0x120, 8, 1, 0x3FFF, 0x0, 0x0, 0x3FFF, 0x0, false⟩, -- TOFSf
     ⟨0x128, 1, 1, 0x3FFF, 0x0, 0x10, 0x3FFF, 0x0, false⟩, -- ISCALE
     ⟨0x129, 1, 1, 0x3FFF, 0x0, 0x0, 0x3FFF, 0x0, false⟩, -- ISOFS
     ⟨0x12A, 1, 1, 0x0, 0x0, 0x1, 0x3FFF, 0x0, false⟩] -- STAT

/-- STW registers (R477). -/
def stwRegs : List RegD :=
    [⟨0x140, 1, 1, 0x3803, 0x0, 0x0, 0x3FFF, 0x0, false⟩, -- CTL
     ⟨0x141, 1, 1, 0x0, 0x8, 0x0, 0x8, 0x0, false⟩, -- STAT
     ⟨0x142, 1, 1, 0x3, 0x0, 0x0, 0x2, 0x0, false⟩, -- TXCTL
     ⟨0x143, 1, 1, 0x3FFF, 0x0, 0x0, 0x3FFF, 0x0, false⟩, -- TXDESTLO
     ⟨0x144, 1, 1, 0x3, 0x0, 0x0, 0x3FFF, 0x0, false⟩, -- TXDESTHI
     ⟨0x145, 1, 1, 0x0, 0x0, 0x3FFF, 0x3FFF, 0x0, false⟩, -- BOOT
     ⟨0x147, 1, 1, 0x3FFF, 0x0, 0x64, 0x3FFF, 0x0, false⟩, -- DLIM
     ⟨0x148, 1, 1, 0x0, 0x0, 0x0, 0x3FFF, 0x0, false⟩, -- LASTERR
     ⟨0x149, 4, 1, 0x0, 0x0, 0x0, 0x0, 0x0, true⟩] -- CMDCNT to RPLDROP

/-- FAB registers (R126). -/
def fabRegs : List RegD :=
    [⟨0x180, 1, 1, 0x7, 0x0, 0x0, 0x6, 0x0, false⟩, -- CTL
     ⟨0x181, 1, 1, 0x0, 0xC, 0x0, 0x1, 0x0, false⟩, -- STAT
     ⟨0x182, 1, 1, 0x3FFF, 0x0, 0x0, 0x3FFF, 0x0, false⟩, -- IDLO
     ⟨0x183, 1, 1, 0x3, 0x0, 0x0, 0x3FFF, 0x0, false⟩, -- IDHI
     ⟨0x184, 1, 1, 0x3FFF, 0x0, 0x0, 0x3FFF, 0x0, false⟩, -- DECDESTLO
     ⟨0x185, 1, 1, 0x3, 0x0, 0x0, 0x3FFF, 0x0, false⟩, -- DECDESTHI
     ⟨0x186, 1, 1, 0x3FFF, 0x0, 0x0, 0x3FFF, 0x0, false⟩, -- PRIMDESTLO
     ⟨0x187, 1, 1, 0x3, 0x0, 0x0, 0x3FFF, 0x0, false⟩, -- PRIMDESTHI
     ⟨0x188, 1, 1, 0x3FFF, 0x0, 0x0, 0x3FFF, 0x0, false⟩, -- STATDESTLO
     ⟨0x189, 1, 1, 0x3, 0x0, 0x0, 0x3FFF, 0x0, false⟩, -- STATDESTHI
     ⟨0x18A, 1, 1, 0x3FFF, 0x0, 0x0, 0x3FFF, 0x0, false⟩, -- TRACEDESTLO
     ⟨0x18B, 1, 1, 0x3, 0x0, 0x0, 0x3FFF, 0x0, false⟩] -- TRACEDESTHI
    ++
    [⟨0x18C, 1, 1, 0x3FFF, 0x0, 0x1040, 0x3FFF, 0x0, false⟩, -- TRAIN
     ⟨0x18D, 1, 1, 0x1FF, 0x0, 0x20, 0x3FFF, 0x0, false⟩, -- CREDTHR
     ⟨0x18E, 1, 1, 0x3FFF, 0x0, 0x0, 0x3FFF, 0x0, false⟩, -- STATPER
     ⟨0x18F, 4, 1, 0x0, 0x0, 0x0, 0x0, 0x0, true⟩, -- HOPDROP to BCDROP
     ⟨0x1A0, 16, 1, 0x7F, 0x0, 0x7E, 0x3FFF, 0x0, false⟩] -- MEMBERj

/-- AON registers (R366, R396). -/
def aonRegs : List RegD :=
    [⟨0x1C0, 2, 1, 0x0, 0x3FFF, 0x0, 0x3FFF, 0x0, false⟩, -- WHITLO, WHITMID
     ⟨0x1C2, 1, 1, 0x0, 0xF, 0x0, 0x3FFF, 0x0, false⟩, -- WHITHI
     ⟨0x1C3, 2, 1, 0x0, 0x0, 0x0, 0x0, 0x0, true⟩, -- WLOST, OFFLOST
     ⟨0x1C7, 1, 1, 0x0, 0x3, 0x0, 0x3FFF, 0x0, false⟩, -- STAT
     ⟨0x1C8, 1, 1, 0xFF, 0x0, 0xFF, 0x3FFF, 0x0, false⟩, -- WAKECTL
     ⟨0x1C9, 1, 1, 0x0, 0x0, 0x0, 0xFF, 0x0, false⟩, -- WAKESTAT
     ⟨0x1E0, 32, 1, 0x3DFF, 0x0, 0x0, 0x3FFF, 0x0, false⟩] -- WATCHj

/-- MC registers (R444). -/
def mcRegs : List RegD :=
    [⟨0x200, 1, 1, 0x0, 0x3000, 0x0, 0x3FFF, 0x0, false⟩, -- MCSTAT
     ⟨0x201, 1, 1, 0x0, 0x0, 0x0, 0x3FFF, 0x0, false⟩, -- MCADDR
     ⟨0x202, 1, 1, 0x0, 0x0, 0x0, 0x3FFF, 0x0, false⟩, -- MCNANO
     ⟨0x203, 1, 1, 0x0, 0x0, 0x0, 0x0, 0x0, true⟩, -- MCCNT
     ⟨0x205, 1, 1, 0x0, 0x0, 0x0, 0x3FFF, 0x0, false⟩, -- PSTAT
     ⟨0x208, 2, 1, 0x0, 0x0, 0x0, 0x3FFF, 0x0, false⟩] -- PIDLO, PIDHI

/-- DBG registers: DPOR_N alone sets them, to the values given here (R553). -/
def dbgRegs : List RegD :=
    [⟨0x300, 1, 1, 0xC, 0x0, 0x4, 0x3FFF, 0x0, false⟩, -- CTL
     ⟨0x302, 1, 1, 0x7FF, 0x0, 0x0, 0x3FFF, 0x0, false⟩, -- FREEZE
     ⟨0x305, 1, 1, 0x7, 0x0, 0x0, 0x3FFF, 0x0, false⟩, -- TRCCTL
     ⟨0x306, 1, 1, 0x0, 0x80, 0x0, 0x3FFF, 0x0, false⟩, -- TRCSTAT
     ⟨0x307, 1, 1, 0x0, 0x0, 0x0, 0x3FFF, 0x0, true⟩] -- TRCDROP

/-- FCFG area (R52, R320). -/
def fcfgRegs : List RegD :=
    [⟨0x000, 1, 1, 0x3E1F, 0x0, 0x0, 0x3E1E, 0x0, false⟩, -- FCFG
     ⟨0x001, 1, 1, 0x0, 0xDE, 0x0, 0x1, 0x0, false⟩, -- FSTAT
     ⟨0x002, 1, 1, 0xF, 0x10, 0x0, 0xF, 0x0, false⟩, -- TWINMAP
     ⟨0x003, 1, 1, 0x7FF, 0x0, 0x0, 0x3FFF, 0x0, false⟩, -- ROT
     ⟨0x005, 1, 1, 0x3FFF, 0x0, 0x0, 0x3FFF, 0x0, false⟩, -- SLOTENTRY
     ⟨0x008, 2, 1, 0x3FFF, 0x0, 0x0, 0x3FFF, 0x0, false⟩, -- SAFEDECA, SAFEDECB
     ⟨0x00A, 4, 1, 0x0, 0x0, 0x0, 0x0, 0x0, true⟩, -- OVRCNT to PRIMDROP
     ⟨0x00E, 1, 1, 0x0, 0x0, 0x0, 0x0, 0x0, false⟩] -- LASTOVR

/-- MAP area (R154). -/
def mapRegs : List RegD :=
    [⟨0x040, 1, 1, 0x3F03, 0x0, 0x0, 0x3FFF, 0x0, false⟩, -- MAPCTL
     ⟨0x041, 1, 1, 0x0, 0xE0, 0x0, 0x6, 0x0, false⟩, -- MAPSTAT
     ⟨0x042, 1, 1, 0x3F, 0x0, 0x8, 0x3FFF, 0x0, false⟩, -- MAPALIGN
     ⟨0x043, 1, 1, 0xFFF, 0x0, 0x0, 0x3FFF, 0x0, false⟩, -- MAPEXP
     ⟨0x044, 1, 1, 0x3FFF, 0x0, 0x0, 0x3FFF, 0x0, false⟩, -- MAPZS
     ⟨0x045, 2, 1, 0x0, 0x0, 0x0, 0x0, 0x0, true⟩, -- MAPAHWM, MAPFHWM
     ⟨0x047, 2, 1, 0x0, 0x0, 0x0, 0x0, 0x0, false⟩, -- MAPLASTP, MAPLASTC
     ⟨0x049, 12, 1, 0x0, 0x0, 0x0, 0x0, 0x0, true⟩, -- MAPLATE to MAPMASKED
     ⟨0x060, 32, 1, 0x3FFF, 0x0, 0x3FFF, 0x3FFF, 0x0, false⟩] -- MAPMASKj

/-- MAT area (R178). -/
def matRegs : List RegD :=
    [⟨0x080, 1, 1, 0xFFF, 0x0, 0x0, 0x3FFF, 0x0, false⟩, -- MATRING
     ⟨0x081, 1, 1, 0x0, 0x7C, 0x0, 0x1, 0x0, false⟩, -- MATSTAT
     ⟨0x083, 5, 1, 0x0, 0x0, 0x0, 0x0, 0x0, true⟩, -- MATOVF to MATMAXM
     ⟨0x0A0, 32, 1, 0x1FF, 0x0, 0x0, 0x3FFF, 0x0, false⟩] -- MATMAJAg, MATMAJBg

/-- EV area (R365). -/
def evRegs : List RegD :=
    [⟨0x101, 1, 1, 0x20FF, 0x0, 0x2000, 0xFF, 0x2000, false⟩, -- EVGATE
     ⟨0x102, 1, 1, 0x0, 0x700, 0x0, 0x0, 0x0, false⟩, -- EVSTAT
     ⟨0x103, 1, 1, 0x3F80, 0x0, 0x0, 0x3FFF, 0x0, false⟩, -- EVVBASE
     ⟨0x104, 3, 1, 0x0, 0x0, 0x0, 0x0, 0x0, true⟩, -- EVBADDONE to EVNULL
     ⟨0x107, 1, 1, 0x1FF, 0x0, 0x0, 0x3FFF, 0x0, false⟩, -- EVQSEL
     ⟨0x120, 24, 1, 0x0, 0x0, 0x0, 0x0, 0x0, false⟩] -- EVLVLk.c

/-- TMR area (R87). -/
def tmrRegs : List RegD :=
    [⟨0x140, 4, 4, 0x7, 0x8, 0x0, 0x6, 0x0, false⟩, -- TMRkCTL
     ⟨0x141, 4, 4, 0x3FFF, 0x0, 0x0, 0x3FFF, 0x0, false⟩, -- TMRkPRE
     ⟨0x142, 4, 4, 0x3FFF, 0x0, 0x0, 0x3FFF, 0x0, false⟩, -- TMRkPERIOD
     ⟨0x143, 4, 4, 0x0, 0x0, 0x0, 0x0, 0x0, false⟩] -- TMRkCOUNT

/-- LED area (R394). -/
def ledRegs : List RegD :=
    [⟨0x182, 1, 1, 0x3FFF, 0x0, 0x3FFF, 0x3FFF, 0x0, false⟩, -- LEDCAPLO
     ⟨0x183, 1, 1, 0x1FFF, 0x0, 0x1FFF, 0x3FFF, 0x0, false⟩, -- LEDCAPHI
     ⟨0x184, 1, 1, 0x3FFF, 0x0, 0x0, 0x3FFF, 0x0, false⟩, -- LEDFLOORLO
     ⟨0x185, 1, 1, 0x3FFF, 0x0, 0x3FFC, 0x3FFF, 0x0, false⟩, -- LEDFLOORHI
     ⟨0x186, 2, 1, 0x3FFF, 0x0, 0x0, 0x3FFF, 0x0, false⟩, -- LEDRESLO, LEDRESHI
     ⟨0x188, 2, 1, 0x3FFF, 0x0, 0x3FFF, 0x3FFF, 0x0, false⟩, -- LEDECAPLO, LEDECAPHI
     ⟨0x18F, 1, 1, 0x0, 0xC, 0x0, 0x0, 0x0, false⟩, -- LEDSTAT
     ⟨0x191, 3, 1, 0x0, 0x0, 0x0, 0x0, 0x0, true⟩] -- LEDFLOORCNT to LEDPROM

/-- MEM area (R425). -/
def memRegs : List RegD :=
    [⟨0x1C0, 1, 1, 0x3, 0x0, 0x3, 0x3FFF, 0x0, false⟩, -- MEMCTL
     ⟨0x1C1, 1, 1, 0x0, 0x3E, 0x0, 0x20, 0x0, false⟩, -- MEMSTAT
     ⟨0x1C2, 1, 1, 0x3FFF, 0x0, 0x0, 0x0, 0x0, false⟩, -- ECCFLIPLO
     ⟨0x1C3, 1, 1, 0x3F, 0x0, 0x0, 0x0, 0x0, false⟩, -- ECCFLIPHI
     ⟨0x1C4, 1, 1, 0x23FF, 0x0, 0x303, 0x3FFF, 0x0, false⟩, -- MEMSCAN
     ⟨0x1C6, 1, 1, 0x3FFF, 0x0, 0x1020, 0x3FFF, 0x0, false⟩, -- MEMLEAK
     ⟨0x1C8, 5, 1, 0x0, 0x0, 0x0, 0x3FFF, 0x0, false⟩, -- MEMUEADDR to MEMSFADDR
     ⟨0x1CD, 8, 1, 0x0, 0x0, 0x0, 0x0, 0x0, true⟩, -- MEMCE to MEMPASS
     ⟨0x200, 16, 4, 0x7FF, 0x0, 0x0, 0x3FFF, 0x0, false⟩, -- REGrBASE
     ⟨0x201, 16, 4, 0x7FF, 0x0, 0x0, 0x3FFF, 0x0, false⟩, -- REGrLIM
     ⟨0x202, 16, 4, 0x3FFF, 0x0, 0x0, 0x3FFF, 0x0, false⟩, -- REGrPA
     ⟨0x203, 16, 4, 0x33FF, 0x0, 0x0, 0x3FFF, 0x0, false⟩] -- REGrPB

/-- DW and STIM areas (R555, R556). -/
def dwRegs : List RegD :=
    [⟨0x240, 4, 8, 0x3FFF, 0x0, 0x0, 0x3FFF, 0x0, false⟩, -- DWkLOLO
     ⟨0x241, 4, 8, 0x3FFF, 0x0, 0x0, 0x3FFF, 0x0, false⟩, -- DWkLOHI
     ⟨0x242, 4, 8, 0x3FFF, 0x0, 0x0, 0x3FFF, 0x0, false⟩, -- DWkHILO
     ⟨0x243, 4, 8, 0x3FFF, 0x0, 0x0, 0x3FFF, 0x0, false⟩, -- DWkHIHI
     ⟨0x244, 4, 8, 0x3FFF, 0x0, 0x0, 0x3FFF, 0x0, false⟩, -- DWkCTL
     ⟨0x245, 4, 8, 0x3FC1, 0x0, 0x0, 0x3FFF, 0x0, false⟩, -- DWkCTXID
     ⟨0x246, 4, 8, 0x3FFF, 0x0, 0x0, 0x3FFF, 0x0, false⟩, -- DWkDATA
     ⟨0x247, 4, 8, 0x3FFF, 0x0, 0x0, 0x3FFF, 0x0, false⟩, -- DWkMASK
     ⟨0x260, 1, 1, 0x0, 0xF, 0x0, 0x0, 0x0, false⟩, -- DWSTAT
     ⟨0x261, 3, 1, 0x0, 0x0, 0x0, 0x3FFF, 0x0, false⟩, -- DWADDRLO to DWDATA
     ⟨0x2A0, 2, 1, 0x3FFF, 0x0, 0x0, 0x3FFF, 0x0, false⟩, -- STIMENLO, STIMENMID
     ⟨0x2A2, 1, 1, 0xF, 0x0, 0x0, 0x3FFF, 0x0, false⟩] -- STIMENHI
    ++
    [⟨0x2A3, 1, 1, 0x0, 0x10, 0x0, 0x0, 0x0, false⟩, -- STIMSTAT
     ⟨0x2A4, 1, 1, 0x0, 0x0, 0x0, 0x0, 0x0, true⟩] -- STIMDROP

/-- engine registers (R213, R395, R554). -/
def engRegs : List RegD :=
    [⟨0x000, 1, 1, 0xF01, 0x0, 0x700, 0x1, 0x700, false⟩, -- ECTL
     ⟨0x001, 1, 1, 0x0, 0x60, 0x0, 0x0, 0x0, false⟩, -- ESTAT
     ⟨0x002, 1, 1, 0x387F, 0x0, 0x0, 0x3FFF, 0x0, false⟩, -- CTXWIN
     ⟨0x004, 1, 1, 0x2000, 0x0, 0x0, 0x0, 0x0, false⟩, -- TCAUSE
     ⟨0x008, 1, 1, 0x3FC0, 0x0, 0x0, 0x3FFF, 0x0, false⟩, -- VBASE
     ⟨0x009, 1, 1, 0x37C0, 0x0, 0x0, 0x3FFF, 0x0, false⟩, -- C0PS
     ⟨0x00A, 1, 1, 0xF, 0x0, 0x0, 0x3FFF, 0x0, false⟩, -- VPERM
     ⟨0x00C, 1, 1, 0x0, 0x0, 0x0, 0x3FFF, 0x0, false⟩, -- DFCAUSE
     ⟨0x010, 5, 1, 0x0, 0x0, 0x0, 0x0, 0x0, true⟩, -- POISCNT to CSCE
     ⟨0x020, 1, 1, 0x3C00, 0x0, 0x0, 0x3FFF, 0x0, false⟩, -- SCHED
     ⟨0x021, 1, 1, 0xFFF, 0x0, 0x0, 0x3FFF, 0x0, false⟩, -- PRIO
     ⟨0x022, 1, 1, 0xFF, 0x0, 0x55, 0x3FFF, 0x0, false⟩] -- CLASS
    ++
    [⟨0x023, 3, 1, 0x3FFF, 0x0, 0x0, 0x3FFF, 0x0, false⟩, -- DEADLINEn
     ⟨0x026, 1, 1, 0x3FFF, 0x0, 0x0, 0x3FFF, 0x0, false⟩, -- DLTHR
     ⟨0x027, 1, 1, 0x7, 0x1C0, 0x0, 0x7, 0x0, false⟩, -- DLSTAT
     ⟨0x028, 1, 1, 0x0, 0x0, 0x0, 0x0, 0x0, true⟩, -- ESPENT
     ⟨0x029, 1, 1, 0x3000, 0x0, 0x0, 0x3FFF, 0x0, false⟩, -- LASTRUN
     ⟨0x030, 1, 1, 0x3FF9, 0x0, 0x0, 0x3FF9, 0x0, false⟩, -- DBGCTL
     ⟨0x031, 1, 1, 0x3000, 0x4, 0x0, 0x3000, 0x0, false⟩, -- DBGSTAT
     ⟨0x032, 1, 1, 0x3FFF, 0x0, 0x0, 0x0, 0x0, false⟩, -- DBGPC
     ⟨0x033, 1, 1, 0x3E08, 0x0, 0x3E07, 0x3E00, 0x7, false⟩, -- DBGCTX
     ⟨0x034, 8, 1, 0x3FFF, 0x0, 0x0, 0x3FFF, 0x0, false⟩] -- IACk

/-- link registers (R127). -/
def lnkRegs : List RegD :=
    [⟨0x000, 1, 1, 0x2FD, 0x0, 0x0, 0xFD, 0x0, false⟩, -- CTL
     ⟨0x001, 1, 1, 0x0, 0x38, 0x0, 0x0, 0x0, false⟩, -- STAT
     ⟨0x002, 1, 1, 0x0, 0x0, 0x0, 0x3FFF, 0x0, false⟩, -- LAT
     ⟨0x003, 1, 1, 0x0, 0x0, 0x0, 0x3FFF, 0x0, false⟩, -- PEER
     ⟨0x004, 1, 1, 0x0, 0x0, 0x0, 0x3000, 0x0, false⟩, -- CRED
     ⟨0x005, 2, 1, 0x0, 0x0, 0x0, 0x0, 0x0, true⟩] -- CRCERR, SEQERR

/-- The row of a table that lists offset `off`. -/
def regFind : List RegD → Nat → Option RegD
  | [], _ => none
  | d :: ds, off =>
    if d.off ≤ off ∧ (off - d.off) % d.st = 0 ∧ (off - d.off) / d.st < d.n then some d else regFind ds off

/-- The row of a block register at block offset `off` (R562). -/
def blkRow (off : Nat) : Option RegD :=
  if off < 0x040 then regFind blkRegs off
  else if off < 0x0C0 then regFind tbRegs off
  else if off < 0x100 then regFind govRegs off
  else if off < 0x140 then regFind calRegs off
  else if off < 0x180 then regFind stwRegs off
  else if off < 0x1C0 then regFind fabRegs off
  else if off < 0x200 then regFind aonRegs off
  else if off < 0x300 then regFind mcRegs off
  else regFind dbgRegs off

/-- The row of a field register at field offset `off` (R563). -/
def fieldRow (off : Nat) : Option RegD :=
  if off < 0x040 then regFind fcfgRegs off
  else if off < 0x080 then regFind mapRegs off
  else if off < 0x100 then regFind matRegs off
  else if off < 0x140 then regFind evRegs off
  else if off < 0x180 then regFind tmrRegs off
  else if off < 0x1C0 then regFind ledRegs off
  else if off < 0x240 then regFind memRegs off
  else regFind dwRegs off

/-- The row of the register at block address `a` (R557): block, field, engine or link register. -/
def regRow (a : Nat) : Option RegD :=
  if a < 0x0F00000 then none
  else if a < 0x0F01000 then blkRow (a - 0x0F00000)
  else if a < 0x0F10000 then none
  else if a < 0x0F18000 then fieldRow ((a - 0x0F10000) % 0x1000)
  else if a < 0x0F20000 then none
  else if a < 0x0F21000 then regFind engRegs ((a - 0x0F20000) % 0x40)
  else if a < 0x0F30000 then none
  else if a < 0x0F30600 then regFind lnkRegs ((a - 0x0F30000) % 0x10)
  else none

/-- The cold value of the register at block address `a` (R15). -/
def coldReg (a : Nat) : BitVec 14 :=
  match regRow a with
  | some d => d.cold
  | none => 0

/-- What the register at block address `a` holds. -/
def reg (b : Blk) (a : Nat) : BitVec 14 := kget (coldReg a) b.regs a

/-- The block with the register at `a` holding `v`. -/
def setReg (a : Nat) (v : BitVec 14) (b : Blk) : Blk := { b with regs := kset (coldReg a) b.regs a v }

/-- Set, or clear, the bits of mask `m` in the register at `a`. -/
def orReg (a : Nat) (m : BitVec 14) (b : Blk) : Blk := setReg a (reg b a ||| m) b
def clrReg (a : Nat) (m : BitVec 14) (b : Blk) : Blk := setReg a (reg b a &&& ~~~m) b

/-- Add `k` to the counter at `a`, saturating at 16,383. -/
def countN (a k : Nat) (b : Blk) : Blk := setReg a (BitVec.ofNat 14 (min 16383 ((reg b a).toNat + k))) b

/-- Add 1 to the counter at `a`. -/
def count (a : Nat) (b : Blk) : Blk := countN a 1 b

/-- Raise the peak register at `a` to `k`. -/
def peak (a k : Nat) (b : Blk) : Blk := if (reg b a).toNat < k then setReg a (BitVec.ofNat 14 (min 16383 k)) b else b

/-- A 28-bit value held in the registers at `a` (bits 13:0) and `a + 1` (bits 27:14). -/
def regPair (b : Blk) (a : Nat) : BitVec 28 := pair (reg b a) (reg b (a + 1))

/-- What a write of `v` leaves under the row's access codes (R16, R17). -/
def writeRow (d : RegD) (old v : BitVec 14) : BitVec 14 := ((old &&& ~~~d.rw) &&& ~~~(v &&& d.w1c)) ||| (v &&& d.rw)

/-- A write to a register with no rule of its own (R17). -/
def plainWrite (a : Nat) (v : BitVec 14) (b : Blk) : Blk :=
  match regRow a with
  | some d => setReg a (writeRow d (reg b a) v) b
  | none => b

/-- The warm value of a register that holds `v` (R15). -/
def warmVal (a : Nat) (v : BitVec 14) : BitVec 14 :=
  match regRow a with
  | some d => (v &&& d.keep) ||| (d.warm &&& ~~~d.keep)
  | none => v

/-! Values that many rules use. -/

def modeOf (b : Blk) : Nat := fld (reg b (aB 0x000)) 0 4
/-- A, the alignment latency of the block (R128): one value, held at F0's address. -/
def alignA (b : Blk) : Nat := (reg b (aF 0 0x042)).toNat
/-- The activity level of field f (R385). -/
def levelOf (b : Blk) (f : Nat) : Nat := fld (reg b (aB (0x0D8 + f))) 0 4
def fenBit (b : Blk) (f : Nat) : Bool := bit (reg b (aF f 0x000)) 0
def twinmap (b : Blk) (f : Nat) : BitVec 14 := reg b (aF f 0x002)
/-- Engine e is named by a joined pair; it is the pair's odd engine. -/
def isTwin (b : Blk) (e : Nat) : Bool := decide (e % 2 = 0) && bit (twinmap b (e / 8)) (e % 8 / 2)
def isOdd (b : Blk) (e : Nat) : Bool := isOddOf (twinmap b (e / 8)) (e % 8)
def ectl (b : Blk) (e : Nat) : BitVec 14 := reg b (aE e 0x00)
def runBit (b : Blk) (e : Nat) : Bool := bit (ectl b e) 11
/-- Freeze bit i of DBG.FREEZE (R548). -/
def frozen (b : Blk) (i : Nat) : Bool := bit (reg b (aB 0x302)) i
def locked (b : Blk) : Bool := bit (reg b (aB 0x041)) 0
def nobclk (b : Blk) : Bool := bit (reg b (aB 0x041)) 8
/-- The block's own device ID (R120). -/
def ownId (b : Blk) : BitVec 16 := (reg b (aB 0x183)).extractLsb' 0 2 ++ reg b (aB 0x182)
def idAt (b : Blk) (a : Nat) : BitVec 16 := (reg b (a + 1)).extractLsb' 0 2 ++ reg b a

end Sys2Proof.Machine
end

