-- ==== Sys2Proof/Machine/Ecc.lean ====
section
/-! DEFINITION. The memories: where each stands (R557), the check code (R407, R408), the counting of errors (R411 to R416), the
regions (R402 to R405), the flip mask (R417) and the sinter's shadow (R420). A read answers the cell, the block, and the
sources it raises, as pairs of field and source; Machine/Events.lean raises them. -/

namespace Sys2Proof.Machine

/-! The check code. -/

/-- The parity of the ones of a vector. -/
def oddOnes {n : Nat} (v : BitVec n) : Bool := decide (sumN ((List.range n).map (fun i => b2n (bit v i))) % 2 = 1)

/-- How many ones a vector has. -/
def ones {n : Nat} (v : BitVec n) : Nat := sumN ((List.range n).map (fun i => b2n (bit v i)))

/-- The row masks M0 to M5 (R407). -/
def rowMasks : List (BitVec 14) := [0x1555, 0x2A55, 0x15A9, 0x29A6, 0x269A, 0x1A6A]

/-- The syndromes of d0 to d13 (R407). -/
def columns : List (BitVec 6) :=
  [0x07, 0x38, 0x0B, 0x34, 0x13, 0x2C, 0x23, 0x1C, 0x0D, 0x32, 0x15, 0x2A, 0x25, 0x1A]

/-- The check c5 to c0 of a data cell (R407). -/
def checkOf (d : BitVec 14) : BitVec 6 :=
  BitVec.ofNat 6 (sumN ((List.range 6).map (fun i => 2 ^ i * b2n (oddOnes (d &&& nth 0 rowMasks i)))))

/-- The stored word of a clean cell: its check stands inverted in bits 19:14 (R407). -/
def storedWord (d : BitVec 14) : BitVec 20 := ~~~ (checkOf d) ++ d

/-- The word that a store of a cell writes: the all-zero word for a cell with P = 1 (R411). -/
def wordOf (c : BCell) : BitVec 20 := if c.p then 0 else storedWord c.v

/-- The classes of R408. -/
inductive EccClass where
  | poison | clean | correctable | uncorrectable
deriving DecidableEq, Repr

/-- What a read of a stored word finds (R408). -/
structure EccRead where
  cls : EccClass
  cell : BCell
  synd : BitVec 6
deriving DecidableEq, Repr

/-- The data bit whose column is a syndrome, if any. -/
def columnOf (s : BitVec 6) : Option Nat := columns.findIdx? (fun c => c == s)

/-- The decoding of a stored word (R408): the first row that applies decides. -/
def eccDecode (w : BitVec 20) : EccRead :=
  let d := w.extractLsb' 0 14
  let s := checkOf d ^^^ ~~~ (w.extractLsb' 14 6)
  if w = 0 then { cls := .poison, cell := absentCell, synd := s }
  else if ones w = 1 then { cls := .uncorrectable, cell := { v := d, p := true }, synd := s }
  else if s = 0 then { cls := .clean, cell := clean d, synd := s }
  else if ones s = 1 then { cls := .correctable, cell := clean d, synd := s }
  else
    match columnOf s with
    | some j => { cls := .correctable, cell := clean (d ^^^ (1 <<< j)), synd := s }
    | none => { cls := .uncorrectable, cell := { v := d, p := true }, synd := s }

/-! Where a block address stands. -/

/-- A word of one of the memories of R409, with its unit and its offset in it. -/
inductive Mem where
  | fieldMem (f off : Nat)
  | codeStore (e off : Nat)
  | chanMap (f off : Nat)
  | winTab (f off : Nat)
  | srcTab (f off : Nat)
  | routeTab (off : Nat)
deriving DecidableEq, Repr

/-- The memory at a block address (R557); none outside the memories. -/
def memAt (a : Nat) : Option Mem :=
  if a < 0x80000 then some (.fieldMem (a / 0x10000) (a % 0x10000))
  else if a < 0xC0000 then some (.codeStore ((a - 0x80000) / 0x1000) (a % 0x1000))
  else if a < 0x100000 then none
  else if a < 0x200000 then
    if a % 0x10000 < 0x9000 then some (.chanMap ((a - 0x100000) / 0x20000) (a % 0x20000)) else none
  else if a < 0x204000 then some (.winTab ((a - 0x200000) / 0x800) (a % 0x800))
  else if a < 0x210000 then none
  else if a < 0x212000 then some (.routeTab (a - 0x210000))
  else if a < 0x220000 then none
  else if a < 0x222000 then some (.srcTab ((a - 0x220000) / 0x400) (a % 0x400))
  else none

/-- The block address of a memory word (R557). -/
def memAddr : Mem → Nat
  | .fieldMem f off => f * 0x10000 + off
  | .codeStore e off => 0x80000 + e * 0x1000 + off
  | .chanMap f off => 0x100000 + f * 0x20000 + off
  | .winTab f off => 0x200000 + f * 0x800 + off
  | .srcTab f off => 0x220000 + f * 0x400 + off
  | .routeTab off => 0x210000 + off

/-- The field that owns a memory, whose counters its errors raise; F0 for the route tables (R411, R412, R416). -/
def memField : Mem → Nat
  | .fieldMem f _ => f
  | .codeStore e _ => e / 8
  | .chanMap f _ => f
  | .winTab f _ => f
  | .srcTab f _ => f
  | .routeTab _ => 0

/-- The memory is in the configuration and its field has power (R6, R494). -/
def memPresent (b : Blk) : Mem → Bool
  | .routeTab _ => true
  | m => powered b (memField m)

/-- A clear of the memory is in progress (R410). -/
def memClearing (b : Blk) : Mem → Bool
  | .routeTab _ => b.md.fabClear
  | m => (fieldOf b (memField m)).clearing

/-! The sinter's shadow (R420). -/

/-- The cell at offset `off` of the field's memory is borrowed: its index in the shadow. -/
def shadowIdx (g : Field) (off : Nat) : Option Nat :=
  if off / 32 = g.sinter.block ∧ g.sinter.phase ≠ 0 then
    let i := off % 32
    if g.sinter.phase = 1 then (if i < 8 * g.sinter.stp then some i else none)
    else if g.sinter.phase = 2 then some i
    else if 8 * g.sinter.stp ≤ i then some i else none
  else none

/-- The borrowed cell at a memory word, where the shadow serves it. -/
def shadowOf (b : Blk) : Mem → Option Nat
  | .fieldMem f off => shadowIdx (fieldOf b f) off
  | _ => none

/-! Words. -/

/-- The 20-bit word at a block address; an unlisted word is all zero (R410). -/
def rawWord (b : Blk) (a : Nat) : BitVec 20 := kget 0 b.mem a

/-- The bits that a list of faults holds at 0 at a place. -/
def maskIn (l : List (Nat × BitVec 20)) (a : Nat) : BitVec 20 :=
  match l.find? (fun x => x.1 == a) with
  | some x => x.2
  | none => 0

/-- The bits of a memory word that a fault of the hardware holds at 0 (none in a sound block). -/
def stuckMask (b : Blk) : Mem → BitVec 20
  | .fieldMem f off => maskIn (fieldOf b f).bad off
  | m => maskIn b.stuck (memAddr m)

/-- Put a word into a memory. -/
def putWord (m : Mem) (w : BitVec 20) (b : Blk) : Blk :=
  { b with mem := kset 0 b.mem (memAddr m) (w &&& ~~~ (stuckMask b m)) }

/-- What a read delivers when nothing is counted: a peek (R19), and the event controller's use of its table. -/
def peekMem (b : Blk) (m : Mem) : BCell :=
  if memPresent b m = false ∨ memClearing b m = true then absentCell
  else
    match shadowOf b m with
    | some i => nth absentCell (fieldOf b (memField m)).sinter.shadow i
    | none => (eccDecode (rawWord b (memAddr m))).cell

/-! Counting (R411 to R416). Master code 11 is the sinter, which leaves poison patterns uncounted. -/

/-- The leaky bucket takes a correctable error (R414). -/
def bucketAdd (f : Nat) (b : Blk) : Blk × List (Nat × Nat) :=
  if eccwb b then
    let thr := max 1 (fld (reg b (aF f 0x1C6)) 0 8)
    if thr < (fieldOf b f).bucket + 1 then
      (orReg (aF f 0x1C1) 4 (onField f (fun g => { g with bucket := thr }) b), [(f, 454)])
    else (onField f (fun g => { g with bucket := g.bucket + 1 }) b, [])
  else (b, [])

/-- Record an uncorrectable read of field memory (R416). -/
def recordUe (m : Mem) (synd : BitVec 6) (mcode : Nat) (b : Blk) : Blk :=
  match m with
  | .fieldMem f off =>
    setReg (aF f 0x1C9) (BitVec.ofNat 14 (off / 0x4000 * 0x1000 + synd.toNat * 64 + mcode))
      (setReg (aF f 0x1C8) (BitVec.ofNat 14 (off % 0x4000)) b)
  | _ => b

/-- Queue, or make, the write-back of a corrected cell (R413): one waits for port B in each field memory; in the other
memories the first idle cycle takes it at once (log entry 13). -/
def writeBack (m : Mem) (d : BitVec 14) (b : Blk) : Blk :=
  if eccwb b then
    match m with
    | .fieldMem f off => onField f (fun g => if g.wback.isNone then { g with wback := some (off, d) } else g) b
    | m => putWord m (storedWord d) b
  else b

/-- Count what a read found and answer the sources it raises. -/
def noteRead (m : Mem) (r : EccRead) (mcode : Nat) (b : Blk) : Blk × List (Nat × Nat) :=
  let f := memField m
  match r.cls with
  | .clean => (b, [])
  | .poison => (if mcode = 11 then b else count (aF f 0x1CF) b, [])
  | .correctable =>
    let x := bucketAdd f (count (aF f 0x1CD) b)
    (writeBack m r.cell.v x.1, x.2)
  | .uncorrectable =>
    (recordUe m r.synd mcode (orReg (aF f 0x1C1) 8 (count (aF f 0x1CE) b)), [(f, 453)])

/-- A counted read of a memory word by the reader with code `mcode`. -/
def readMem (m : Mem) (mcode : Nat) (b : Blk) : BCell × Blk × List (Nat × Nat) :=
  if memPresent b m = false ∨ memClearing b m = true then (absentCell, b, [])
  else
    match shadowOf b m with
    | some i => (nth absentCell (fieldOf b (memField m)).sinter.shadow i, b, [])
    | none =>
      let r := eccDecode (rawWord b (memAddr m))
      let x := noteRead m r mcode b
      (r.cell, x.1, x.2)

/-! Writes. -/

/-- The armed flip mask of field f, for a write to its memory (R417). -/
def flipMask (b : Blk) (f : Nat) : Option (BitVec 20) :=
  let hi := reg b (aF f 0x1C3)
  if bit hi 13 then some (hi.extractLsb' 0 6 ++ reg b (aF f 0x1C2)) else none

/-- Cancel a queued write-back of the word at `off` (R413). -/
def cancelBack (f off : Nat) (b : Blk) : Blk :=
  onField f (fun g => if g.wback.map (fun x => x.1) = some off then { g with wback := none } else g) b

/-- A store into field memory (R417, R420, R421): into the shadow of a borrowed cell, or into the word, through an armed
flip mask. -/
def storeField (f off : Nat) (c : BCell) (b : Blk) : Blk :=
  let b := cancelBack f off b
  let b := onField f (fun g => if g.sinter.phase ≠ 0 ∧ off / 32 = g.sinter.block then
    { g with sinter := { g.sinter with cancelled := true } } else g) b
  match shadowIdx (fieldOf b f) off with
  | some i =>
    onField f (fun g => { g with sinter := { g.sinter with shadow := upd (fun _ => if c.p then absentCell else c) g.sinter.shadow i } }) b
  | none =>
    match flipMask b f with
    | some k => putWord (.fieldMem f off) (wordOf c ^^^ k) (setReg (aF f 0x1C2) 0 (setReg (aF f 0x1C3) 0 b))
    | none => putWord (.fieldMem f off) (wordOf c) b

/-- A store of a cell into a memory; discarded while the memory clears (R410) or is absent. The reserved bits of a route-table
cell are not stored (R16, R122). -/
def storeMem (m : Mem) (c : BCell) (b : Blk) : Blk :=
  if memPresent b m = false ∨ memClearing b m = true then b
  else
    match m with
    | .fieldMem f off => storeField f off c b
    | .routeTab off => putWord (.routeTab off) (wordOf { c with v := c.v &&& 0x7F }) b
    | m => putWord m (wordOf c) b

/-! Regions (R402 to R405). -/

/-- The lowest-numbered enabled region of field f that covers block `blk`, from region `r` on, `n` regions being left. -/
def regionFind (b : Blk) (f blk : Nat) : Nat → Nat → Option Nat
  | 0, _ => none
  | n + 1, r =>
    if bit (reg b (aF f (0x203 + 4 * r))) 13 ∧ fld (reg b (aF f (0x200 + 4 * r))) 0 11 ≤ blk
        ∧ blk ≤ fld (reg b (aF f (0x201 + 4 * r))) 0 11 then some r
    else regionFind b f blk n (r + 1)

/-- The region that decides for an offset of field f's memory (R402). -/
def regionOf (b : Blk) (f off : Nat) : Option Nat := regionFind b f (off / 32) 16 0

/-- Where a master's permission stands in REGrPB (R425); link DMA has the steward's (R404). -/
def permShift (mcode : Nat) : Nat :=
  if mcode = 7 then 0 else if mcode = 8 then 2 else if mcode = 9 ∨ mcode = 12 then 4 else if mcode = 10 then 6 else 8

/-- The permission code of a master at an offset of field f's memory (R402, R403). -/
def permOf (b : Blk) (f off mcode : Nat) : Nat :=
  match regionOf b f off with
  | some r =>
    if mcode < 7 then fld (reg b (aF f (0x202 + 4 * r))) (2 * mcode) 2
    else fld (reg b (aF f (0x203 + 4 * r))) (permShift mcode) 2
  | none => fld (reg b (aF f 0x1C0)) 0 2

/-- The kinds of an access, as MEMDENYINFO numbers them: 0 read, 1 write, 2 fetch. -/
def permits (p kind : Nat) : Bool := decide (kind + 1 ≤ p)

/-- Record a refusal (R405). -/
def recordDeny (f off kind mcode : Nat) (b : Blk) : Blk :=
  setReg (aF f 0x1CB) (BitVec.ofNat 14 (off / 0x4000 * 0x1000 + kind * 16 + mcode))
    (setReg (aF f 0x1CA) (BitVec.ofNat 14 (off % 0x4000))
      (orReg (aF f 0x1C1) 0x10 (count (aF f 0x1D1) b)))

/-- The sources of a refusal: 461 for the intake writer, the steward, link DMA and debug (R405). -/
def denySources (f mcode : Nat) : List (Nat × Nat) := if 8 ≤ mcode ∧ mcode ≠ 11 then [(f, 461)] else []

end Sys2Proof.Machine
end

