-- ==== Sys2Proof/Machine/Events.lean ====
section
/-! DEFINITION. The event controllers (chapter 11): the source table, raises, the geyser, deliverability and request lines,
claims and completions, and the fumarole, which takes raises to fields that cannot. -/

namespace Sys2Proof.Machine

/-- A source at rest (R341). -/
def Src.idle : Src := { st := .idle, r := 0, g := 0, repend := false, claimer := 0 }

/-- The state of source s of a field. -/
def srcOf (g : Field) (s : Nat) : Src := kget Src.idle g.srcs s

/-- Source s of field f takes a state. -/
def putSrc (f s : Nat) (x : Src) (b : Blk) : Blk := onField f (fun g => { g with srcs := kset Src.idle g.srcs s x }) b

/-- A source-table entry as the controller uses it (R339). -/
structure SrcEnt where
  en : Bool
  eng : Nat
  ctx : Nat
  tsel : Nat
  hidx : Nat
  need : Nat
  time : Nat
deriving DecidableEq, Repr

/-- The block address of the entry of source s (R339). -/
def srcAddr (f s : Nat) : Nat := 0x220000 + f * 0x400 + 2 * s

/-- The entry that two table cells hold (R339). -/
def srcEntOf (c0 c1 : BitVec 14) : SrcEnt :=
  { en := bit c0 13, eng := fld c0 10 3, ctx := fld c0 8 2, tsel := fld c0 6 2, hidx := fld c0 0 6,
    need := max 1 (fld c1 6 8), time := fld c1 0 6 }

/-- The entry of source s, or none where a cell reads with P = 1 (R340). -/
def srcEnt (b : Blk) (f s : Nat) : Option SrcEnt :=
  let c0 := peekMem b (.srcTab f (2 * s))
  let c1 := peekMem b (.srcTab f (2 * s + 1))
  if c0.p ∨ c1.p then none else some (srcEntOf c0.v c1.v)

/-- The entry of an enabled source: none for a disabled or poisoned one. -/
def srcLive (b : Blk) (f s : Nat) : Option SrcEnt :=
  match srcEnt b f s with
  | some x => if x.en then some x else none
  | none => none

/-! Deliverability (R343). -/

/-- The level of context Cc of local engine k (R345). -/
def evLevel (b : Blk) (f k c : Nat) : Nat := (reg b (aF f (0x120 + 3 * k + c - 1))).toNat
def setEvLevel (f k c s : Nat) (b : Blk) : Blk := setReg (aF f (0x120 + 3 * k + c - 1)) (BitVec.ofNat 14 s) b

/-- EVGATE holds delivery to local engine k (R343). -/
def gated (b : Blk) (f k : Nat) : Bool := bit (reg b (aF f 0x101)) 13 || bit (reg b (aF f 0x101)) k

/-- Source s of field f, with state x, is deliverable to local engine k in context c (R343); never to the odd engine of a
joined pair (R331). -/
def deliverableTo (b : Blk) (f k c : Nat) (s : Nat) (x : Src) : Bool :=
  decide (x.st = .pending) &&
  (match srcLive b f s with
   | some y => decide (y.eng = k) && decide (y.ctx = c) && decide (1 ≤ c)
   | none => false) &&
  bit (ctxOf b (8 * f + k) c).ps 12 && decide (evLevel b f k c < s) && !(gated b f k) && !(isOdd b (8 * f + k))

/-- The highest source deliverable to context c of local engine k (R337, R353). -/
def topSource (b : Blk) (f k c : Nat) : Option Nat :=
  (((fieldOf b f).srcs.filter (fun e => deliverableTo b f k c e.1 e.2)).map (fun e => e.1)).getLast?

/-- The request line of local engine k (R343). -/
def lineOf (b : Blk) (f k : Nat) : Bool :=
  (topSource b f k 1).isSome || (topSource b f k 2).isSome || (topSource b f k 3).isSome

/-- A context in SLEEP becomes READY while its engine's request line is asserted (R349; log entry 14). -/
def wakeCtx (x : Ctx) : Ctx := if x.state = 2 then { x with state := 1 } else x

def wakeEng (e : Nat) (b : Blk) : Blk := onEng e (fun x => { x with ctxs := mapAll wakeCtx x.ctxs }) b

/-- Compute the request lines of field f again, and wake the sleepers of the engines whose line is asserted. -/
def refreshLines (f : Nat) (b : Blk) : Blk :=
  let ls := (List.range 8).map (lineOf b f)
  let b := each (fun k b => if nth false ls k then wakeEng (8 * f + k) b else b) (List.range 8) b
  onField f (fun g => { g with lines := ls }) b

/-! The geyser (R341). -/

/-- An enabled source that has taken enough raises, or is old enough, becomes pending or sets REPEND (R341). -/
def ripen (y : SrcEnt) (x : Src) : Src :=
  if y.need ≤ x.r ∨ (y.time ≠ 0 ∧ 0 < x.r ∧ y.time ≤ x.g) then
    match x.st with
    | .accum => { x with st := .pending }
    | .active => { x with repend := true }
    | .idle => x
    | .pending => x
  else x

/-- A raise of an enabled source (R341). -/
def raised (y : SrcEnt) (x : Src) : Src :=
  let x := { x with r := min (x.r + 1) 255 }
  ripen y (if x.st = .idle then { x with st := .accum, g := 0 } else x)

/-- A prescaler tick ages an accumulating source, or an active one with raises (R341). -/
def aged (y : SrcEnt) (x : Src) : Src :=
  let x := match x.st with
    | .accum => { x with g := min (x.g + 1) 63 }
    | .active => if 0 < x.r then { x with g := min (x.g + 1) 63 } else x
    | .idle => x
    | .pending => x
  ripen y x

/-- Count a discarded raise (R335, R340). -/
def lostRaise (f : Nat) (b : Blk) : Blk := orReg (aF f 0x102) 0x200 (count (aF f 0x105) b)

/-! The fumarole (R359 to R361). -/

/-- The watch entries that name source s of field f. -/
def watchers (b : Blk) (f s : Nat) : List Nat :=
  (List.range 32).filter (fun j =>
    let w := reg b (aB (0x1E0 + j))
    bit w 13 && decide (fld w 10 3 = f) && decide (fld w 0 9 = s) && decide (s ≠ 0) && decide (f < nFields b))

/-- Set the WHIT bit of watch entry j (R366). -/
def setHit (j : Nat) (b : Blk) : Blk := orReg (aB (0x1C0 + j / 14)) (1 <<< (j % 14)) b

/-- A raise to a field that cannot take it (R360, R361): a watched pair sets its hits and requests a wake, and is replayed
once where the field is only stopped; an unwatched one is counted. -/
def fumarole (f s : Nat) (isOff : Bool) (b : Blk) : Blk :=
  let ws := watchers b f s
  if ws.isEmpty then count (aB (if isOff then 0x1C4 else 0x1C3)) b
  else
    let b := onMd (fun m => { m with wakeReq := true, byList := true }) (each setHit ws b)
    if isOff ∨ b.replay.contains (f, s) then b else { b with replay := b.replay ++ [(f, s)] }

/-! Raising. -/

/-- Raise the sources of a list, each through `one`. -/
def raiseEach (one : Nat → Nat → Blk → Blk) : List (Nat × Nat) → Blk → Blk
  | [], b => b
  | (f, s) :: l, b => raiseEach one l (one f s b)

/-- Raise source s of field f (R335, R340, R341, R360, R361). The controller's read of its entry is counted (R411); the
sources that its errors raise are raised in turn, to the depth `n` (log entry 15). -/
def raiseN : Nat → Nat → Nat → Blk → Blk
  | 0, _, _, b => b
  | n + 1, f, s, b =>
    if s = 0 ∨ 511 < s ∨ nFields b ≤ f then b
    else if (fieldOf b f).pwr ≠ .on then fumarole f s true b
    else if (fieldOf b f).clk = false then fumarole f s false b
    else
      let x0 := readMem (.srcTab f (2 * s)) 9 b
      let x1 := readMem (.srcTab f (2 * s + 1)) 9 x0.2.1
      let b := x1.2.1
      let b :=
        if x0.1.p ∨ x1.1.p then orReg (aF f 0x102) 0x400 (lostRaise f b)
        else
          let y := srcEntOf x0.1.v x1.1.v
          if y.en then refreshLines f (putSrc f s (raised y (srcOf (fieldOf b f) s)) b) else b
      raiseEach (raiseN n) (x0.2.2 ++ x1.2.2) b

/-- Raise source s of field f. -/
def raise (f s : Nat) (b : Blk) : Blk := raiseN 4 f s b

/-- Raise each source of a list. -/
def raiseAll (l : List (Nat × Nat)) (b : Blk) : Blk := raiseEach raise l b

/-- Raise source s in every powered field, or in F0 alone, is said by each unit; this raises it in every field. -/
def raiseFields (s : Nat) (b : Blk) : Blk := each (fun f b => raise f s b) (List.range (nFields b)) b

/-- A raise of the timebase that belongs to the slot whose boundary has number `seq` (R75, R338): each field acts on it when it
processes that boundary. -/
def raiseSlot (s seq : Nat) (b : Blk) : Blk :=
  each (fun f b =>
    if clocked b f && decide ((fieldOf b f).cur.seq < seq) then onField f (fun g => { g with due := g.due ++ [(seq, s)] }) b
    else raise f s b) (List.range (nFields b)) b

/-- The raises that the boundary numbered `seq` carries, or one before it, are made (R338). -/
def raiseDue (f seq : Nat) (b : Blk) : Blk :=
  each (fun x b => raise f x.2 b) ((fieldOf b f).due.filter (fun x => decide (x.1 ≤ seq)))
    (onField f (fun g => { g with due := g.due.filter (fun x => decide (seq < x.1)) }) b)

/-- A counted read of a memory word with the raises of what it found. -/
def rdMem (m : Mem) (mcode : Nat) (b : Blk) : BCell × Blk :=
  let x := readMem m mcode b
  (x.1, raiseAll x.2.2 x.2.1)

/-- The controller reads the entry of source s, and the errors it meets are counted (R411; log entry 116). -/
def readEnt (f s : Nat) (b : Blk) : Blk := (rdMem (.srcTab f (2 * s + 1)) 9 (rdMem (.srcTab f (2 * s)) 9 b).2).2

/-- Age source s by one tick of timer k, where its TSEL is k (R341). -/
def ageOne (f k s : Nat) (b : Blk) : Blk :=
  match srcLive b f s with
  | some y =>
    let x := srcOf (fieldOf b f) s
    if y.tsel = k ∧ x.st ≠ .idle ∧ x.st ≠ .pending then putSrc f s (aged y x) (readEnt f s b) else b
  | none => b

/-- A tick of timer k of field f ages its sources (R341). -/
def ageSources (f k : Nat) (b : Blk) : Blk :=
  refreshLines f (each (ageOne f k) ((fieldOf b f).srcs.map (fun e => e.1)) b)

/-! Claims and completions (R346, R347). -/

/-- The highest pending source that is enabled and targets local engine k (R346). -/
def topClaim (b : Blk) (f k : Nat) : Option Nat :=
  (((fieldOf b f).srcs.filter (fun e => decide (e.2.st = .pending) &&
    (match srcLive b f e.1 with
     | some y => decide (y.eng = k)
     | none => false))).map (fun e => e.1)).getLast?

/-- The claim value of source s with R raises (R346). -/
def claimValue (s r : Nat) : BitVec 14 := BitVec.ofNat 14 (min r 31 * 512 + s)

/-- Claim source s for local engine k (R341). -/
def claimSrc (f k s : Nat) (b : Blk) : BitVec 14 × Blk :=
  let x := srcOf (fieldOf b f) s
  (claimValue s x.r, refreshLines f (putSrc f s { st := .active, r := 0, g := 0, repend := false, claimer := k } (readEnt f s b)))

/-- A read of EVCLAIMk (R346, R330). -/
def evClaim (f k : Nat) (b : Blk) : BitVec 14 × Blk :=
  if isOdd b (8 * f + k) then (0, b)
  else
    match topClaim b f k with
    | some s => claimSrc f k s b
    | none => (0, b)

/-- What a debug read of EVCLAIMk shows (R19, R346). -/
def evPeek (b : Blk) (f k : Nat) : BitVec 14 :=
  if isOdd b (8 * f + k) then 0
  else
    match topClaim b f k with
    | some s => claimValue s (srcOf (fieldOf b f) s).r
    | none => 0

/-- An enabled source after its completion (R341). -/
def completed (x : Src) : Src :=
  if x.repend then { x with st := .pending, repend := false, claimer := 0 }
  else if 0 < x.r then { x with st := .accum, claimer := 0 }
  else Src.idle

/-- A completion by local engine k of the source in bits 8:0 (R347, R340, R330). -/
def evDone (f k : Nat) (v : BitVec 14) (b : Blk) : Blk :=
  let s := fld v 0 9
  let x := srcOf (fieldOf b f) s
  if x.st = .active ∧ x.claimer = k ∧ isOdd b (8 * f + k) = false then
    match srcLive b f s with
    | some y => refreshLines f (putSrc f s (ripen y (completed x)) (readEnt f s b))
    | none => refreshLines f (putSrc f s Src.idle (readEnt f s b))
  else orReg (aF f 0x102) 0x100 (count (aF f 0x104) b)

/-! Writes to the source table. -/

/-- After a write to the entry of source s: a disabled or poisoned entry returns an accumulating or pending source to
IDLE (R340), and an enabled one ripens under its new settings (R341). -/
def srcWritten (f s : Nat) (b : Blk) : Blk :=
  let x := srcOf (fieldOf b f) s
  let b := match srcLive b f s with
    | some y => putSrc f s (ripen y x) b
    | none => if x.st = .accum ∨ x.st = .pending then putSrc f s Src.idle b else b
  refreshLines f b

/-- A write of DOORBELL (R335): source 0 is ignored; a poisoned cell, from a master that is no engine, is counted. -/
def doorbell (f : Nat) (c : BCell) (b : Blk) : Blk :=
  if c.p then (if clocked b f then lostRaise f b else b) else raise f (fld c.v 0 9) b

/-- Raise the WATCH-entry hits: a watched pair that is pending when WATCH is entered requests a wake at once (R360). -/
def watchPending (b : Blk) : Blk :=
  each (fun f b => each (fun e b =>
      if e.2.st = .pending then
        let ws := watchers b f e.1
        if ws.isEmpty then b else onMd (fun m => { m with wakeReq := true, byList := true }) (each setHit ws b)
      else b) (fieldOf b f).srcs b)
    (List.range (nFields b)) b

/-- Every source of field f at rest and every level 0 (R363). -/
def resetEvents (f : Nat) (b : Blk) : Blk :=
  onField f (fun g => { g with srcs := [], lines := List.replicate 8 false }) b

end Sys2Proof.Machine
end

