-- ==== Sys2Proof/Machine/Ledger.lean ====
section
/-! DEFINITION. The steam ledger, the deadline timers and promotion, and the ramp governor (chapter 12). -/

namespace Sys2Proof.Machine

/-! The ledger (R372 to R376). -/

/-- LEDCAP, unsigned (R394). -/
def capOf (b : Blk) (f : Nat) : Int := ((regPair b (aF f 0x182)).toNat : Int)
/-- LEDFLOOR, signed; a value above 0 acts as 0 (R394). -/
def floorOf (b : Blk) (f : Nat) : Int := min 0 (regPair b (aF f 0x184)).toInt

/-- A refill of field f (R372). -/
def refill (f : Nat) (n : Nat) (b : Blk) : Blk :=
  onField f (fun g => if g.bal < capOf b f then { g with bal := min (capOf b f) (g.bal + n) } else g) b

/-- Take `d` whole EU from the balance of field f, down to the floor (R372): LEDFLOORCNT counts the field cycle once. -/
def takeEu (f d : Nat) (b : Blk) : Blk :=
  let g := fieldOf b f
  if d = 0 then b
  else if g.bal - d < floorOf b f then
    let b := orReg (aF f 0x18F) 4 (onField f (fun g => { g with bal := floorOf b f, floorCyc := true }) b)
    let b := if g.floorCyc then b else count (aF f 0x191) b
    if g.floorSlot then b else raise f 456 (onField f (fun g => { g with floorSlot := true }) b)
  else onField f (fun g => { g with bal := g.bal - d }) b

/-- The remainder of R374: sixteenths are kept, whole EU leave the balance. -/
def takeSixteenths (f x : Nat) (b : Blk) : Blk :=
  let t := (fieldOf b f).rem + x
  takeEu f (t / 16) (onField f (fun g => { g with rem := t % 16 }) b)

/-- Local engine number and the field of engine e. -/
def fldOf (e : Nat) : Nat := e / 8
def locOf (e : Nat) : Nat := e % 8

/-- Engine e is a member of its field's rotation set (R27). -/
def isMember (b : Blk) (e : Nat) : Bool := bit (reg b (aF (fldOf e) 0x003)) (locOf e) && !(isOdd b e)

/-! Effective class and promotion (R368, R382). -/

/-- The CLASS code of context c of engine e: 0 E, 1 N, 2 and 3 L (R395). -/
def classCode (b : Blk) (e c : Nat) : Nat := fld (reg b (aE e 0x22)) (6 - 2 * c) 2

/-- The effective class: 0 E, 1 N, 2 L; a promoted context is E (R382). -/
def effClass (b : Blk) (e c : Nat) : Nat :=
  let k := classCode b e c
  if k = 1 ∧ 1 ≤ c ∧ nth false (engOf b e).prom (c - 1) = true then 0 else if k = 3 then 2 else k

/-- The promotion conditions of context n (1 to 3) of engine e hold (R382, R383). -/
def promHolds (b : Blk) (e n : Nat) : Bool :=
  decide (classCode b e n = 1) && bit (reg b (aE e 0x27)) (n - 1) &&
  decide ((reg b (aE e (0x22 + n))).toNat < (reg b (aE e 0x26)).toNat) && !((fieldOf b (fldOf e)).esusp)

/-- Recompute the promotions of engine e and count those that begin (R382). -/
def promote (e : Nat) (b : Blk) : Blk :=
  let new := [promHolds b e 1, promHolds b e 2, promHolds b e 3]
  let old := (engOf b e).prom
  let began := sumN ((List.range 3).map (fun i => b2n (nth false new i && !(nth false old i))))
  countN (aF (fldOf e) 0x193) began (onEng e (fun x => { x with prom := new }) b)

/-- Recompute the promotions of every engine of field f. -/
def promoteField (f : Nat) (b : Blk) : Blk := each (fun k b => promote (8 * f + k) b) (List.range 8) b

/-- Count an essential debit of `x` sixteenths by engine e (R383): ESPENT counts in 64 EU. -/
def addEssential (e x : Nat) (b : Blk) : Blk :=
  let t := (engOf b e).espFrac + x
  onField (fldOf e) (fun g => { g with esp := g.esp + x })
    (countN (aE e 0x28) (t / 1024) (onEng e (fun y => { y with espFrac := t % 1024 }) b))

/-- The essential spend passes LEDECAP (R383): promotion is suspended, LEDSTAT.ESUSP's flag sets and source 460 is raised. -/
def suspendEssential (f : Nat) (b : Blk) : Blk :=
  promoteField f (raise f 460 (orReg (aF f 0x18F) 8 (onField f (fun g => { g with esusp := true }) b)))

/-- LEDESP as it reads: the essential spend in EU, saturating (R383, R394). -/
def essentialEu (b : Blk) (f : Nat) : Nat := min (2 ^ 28 - 1) ((fieldOf b f).esp / 16)

/-- The spend exceeds the cap (R383): once until the suspension lifts. -/
def capEssential (f : Nat) (b : Blk) : Blk :=
  if (fieldOf b f).esusp = false ∧ (regPair b (aF f 0x188)).toNat < essentialEu b f then suspendEssential f b else b

/-- Add an essential debit (R383). -/
def spendEssential (e x : Nat) (b : Blk) : Blk :=
  let f := fldOf e
  let b := addEssential e x b
  capEssential f b

/-- LEDESP and every ESPENT clear, and the suspension lifts (R383). -/
def clearEssential (f : Nat) (b : Blk) : Blk :=
  let b := onField f (fun g => { g with esp := 0, esusp := false }) b
  let b := each (fun k b => setReg (aE (8 * f + k) 0x28) 0 (onEng (8 * f + k) (fun y => { y with espFrac := 0 }) b))
    (List.range 8) b
  promoteField f b

/-- The cost of class k in sixteenths (R373): classes 26 to 31 are never debited. -/
def costOf (b : Blk) (k : Nat) : Nat := if k < 26 then (reg b (aB (0x100 + k))).toNat else 0

/-- The modelled energy of a debit, unscaled (R380). -/
def addModelled (f x : Nat) (b : Blk) : Blk := onField f (fun g => { g with emod := g.emod + x }) b

/-- Debit class `k`, `n` times, for context c (0 to 3, 4 FE, 5 none) of engine e (R373, R374, R383). A frozen ledger takes
nothing (R548). -/
def debit (e c k n : Nat) (b : Blk) : Blk :=
  let f := fldOf e
  if frozen b f ∨ n = 0 then b
  else
    let raw := costOf b k
    let amt := raw * (fieldOf b f).kUsed / 1024 * n
    let b := takeSixteenths f amt (addModelled f (raw * n) b)
    if c ≤ 3 ∧ ¬ (c = 0 ∧ isMember b e = true) ∧ effClass b e c = 0 then spendEssential e amt b else b

/-- A field cycle in which engine work was debited ends (R372). -/
def cycleEnd (f : Nat) (b : Blk) : Blk := onField f (fun g => { g with floorCyc := false }) b

/-- Debits of a class that take a field cycle each, n cycles (R373). -/
def debitCycles (e c k n : Nat) (b : Blk) : Blk := times (fun b => cycleEnd (fldOf e) (debit e c k 1 b)) n b

/-! Deadline timers (R381, R384, R541). Index n is 1 to 3. -/

/-- Deadline n of engine e has reached 0: once until it is rewritten. While debug halts the engine DBGSTAT.DLEXP sets
instead, and the expiry is held for the release (R541). -/
def expireDeadline (e n : Nat) (b : Blk) : Blk :=
  if nth true (engOf b e).dlDone (n - 1) then b
  else
    let b := onEng e (fun x => { x with dlDone := upd (fun _ => true) x.dlDone (n - 1) }) b
    if (engOf b e).halted then
      orReg (aE e 0x31) 0x10 (onEng e (fun x => { x with dlHeld := upd (fun _ => true) x.dlHeld (n - 1) }) b)
    else raise (fldOf e) 459 (orReg (aE e 0x27) (1 <<< (5 + n)) b)

/-- Timer n of engine e counts at this boundary: it is armed, and no debug halt with DLFRZ freezes it (R541). -/
def deadlineRuns (b : Blk) (e n : Nat) : Bool :=
  bit (reg b (aE e 0x27)) (n - 1) && !((engOf b e).halted && bit (reg b (aE e 0x30)) 3)

/-- One slot boundary of timer n of engine e (R381). -/
def deadlineTick (e n : Nat) (b : Blk) : Blk :=
  if deadlineRuns b e n then
    let v := (reg b (aE e (0x22 + n))).toNat
    let b := setReg (aE e (0x22 + n)) (BitVec.ofNat 14 (v - 1)) b
    if v ≤ 1 then expireDeadline e n b else b
  else b

/-- The WATCH make-up of timer n: reduced by m slots (R384), where no debug halt freezes it (R541). -/
def deadlineMakeup (m e n : Nat) (b : Blk) : Blk :=
  if deadlineRuns b e n then
    let v := (reg b (aE e (0x22 + n))).toNat
    let b := setReg (aE e (0x22 + n)) (BitVec.ofNat 14 (v - m)) b
    if v ≤ m then expireDeadline e n b else b
  else b

/-- A write of DEADLINEn: it arms the timer (R381). -/
def deadlineWrite (e n : Nat) (v : BitVec 14) (b : Blk) : Blk :=
  let b := orReg (aE e 0x27) (1 <<< (n - 1)) (setReg (aE e (0x22 + n)) v b)
  promote e (onEng e (fun x => { x with dlDone := upd (fun _ => false) x.dlDone (n - 1) }) b)

/-! Candidates (R368). -/

/-- Context c of engine e is eligible under its class (R368); C0 of a member and FE run whatever the ledger holds (R367). -/
def eligible (b : Blk) (e c : Nat) : Bool :=
  if c = 4 ∨ (c = 0 ∧ isMember b e = true) then true
  else
    let k := effClass b e c
    let g := fieldOf b (fldOf e)
    if k = 0 then true else if k = 1 then decide (0 < g.bal)
    else decide (((regPair b (aF (fldOf e) 0x186)).toNat : Int) < g.bal)

/-- Context c of engine e is a candidate: READY, or with a source deliverable to it (R368). -/
def candidate (b : Blk) (e c : Nat) : Bool :=
  decide ((ctxOf b e c).state = 1) || (decide (1 ≤ c) && (topSource b (fldOf e) (locOf e) c).isSome)

/-- Context c of engine e is starved: a candidate that is not eligible (R368). -/
def starved (b : Blk) (e c : Nat) : Bool := candidate b e c && !(eligible b e c)

/-- The priority of context c of engine e (R395). -/
def prioOf (b : Blk) (e c : Nat) : Nat := fld (reg b (aE e 0x21)) (9 - 3 * c) 3

/-- A running context that has become starved has ended its turn (R369): told before the balance or the limits change. -/
def endStarved (f : Nat) (b : Blk) : Blk :=
  each (fun k b =>
    match (engOf b (8 * f + k)).run with
    | some c => if c ≤ 3 ∧ starved b (8 * f + k) c = true then onEng (8 * f + k) (fun x => { x with turnOver := true, lastRan := c }) b else b
    | none => b) (List.range 8) b

/-- Engine e holds a starved context and runs none of lower priority in its place (R368). -/
def starvedEng (b : Blk) (e : Nat) : Bool :=
  (List.range 4).any (fun c => !(decide (c = 0) && isMember b e) && starved b e c &&
    !(match (engOf b e).run with
      | some r => decide (r ≤ 3) && !(decide (r = 0) && isMember b e) && decide (prioOf b e r < prioOf b e c)
      | none => false))

/-- LEDSTARVE counts a field cycle (R368). The field cycles that the model knows are those of the engines' commands (log entry 119). -/
def starveCount (f : Nat) (b : Blk) : Blk :=
  if (List.range 8).any (fun k => starvedEng b (8 * f + k)) then count (aF f 0x192) b else b

/-- The deadline timers, LASTRUN and promotions of engine e at a slot boundary (R381, R382, R395). -/
def engineBoundary (e : Nat) (b : Blk) : Blk :=
  let b := onEng e (fun x => { x with last := x.last.map (fun n => min 4095 (n + 1)) }) b
  promote e (deadlineTick e 3 (deadlineTick e 2 (deadlineTick e 1 b)))

/-- The refill rate of field f (R375). -/
def refillRate (b : Blk) (f : Nat) : Nat :=
  let st := (fieldOf b f).step
  let der := if st = 0 then 256 else fld (reg b (aB (0x0E0 + st))) 0 8
  (regPair b (aB 0x0C2)).toNat * fld (reg b (aB (0x0D0 + f))) 0 8 / 256 * der / 256

/-- The ledger of field f at a slot boundary it processes (R374, R375, R380, R383): the refill comes first; a frozen ledger
neither debits nor refills (R548). -/
def ledgerBoundary (f : Nat) (sweepStart : Bool) (b : Blk) : Blk :=
  let b := onField f (fun g => { g with floorSlot := false, kUsed := fld (reg b (aB 0x0C9)) 0 12 }) b
  let b := endStarved f b
  let b := if frozen b f then b
    else refill f (refillRate b f) (onField f (fun g => { g with rate := refillRate b f }) b)
  let b := if sweepStart then clearEssential f b else b
  each (fun k b => engineBoundary (8 * f + k) b) (List.range 8) b

/-! The governor (R377 to R380, R385 to R388). -/

/-- K with ISEN = 0 (R379). -/
def marginK (b : Blk) : Nat := 1024 + fld (reg b (aB 0x0C4)) 0 7 * 1024 / 100

/-- GOV.LEVELf takes a level, or a target. -/
def setLevel (f n : Nat) (b : Blk) : Blk := setReg (aB (0x0D8 + f)) (putf (reg b (aB (0x0D8 + f))) 0 4 n) b
def setTarget (f n : Nat) (b : Blk) : Blk := setReg (aB (0x0D8 + f)) (putf (reg b (aB (0x0D8 + f))) 4 4 n) b
def targetOf (b : Blk) (f : Nat) : Nat := fld (reg b (aB (0x0D8 + f))) 4 4

/-- Set TARGET to 8 in every powered field (R388). -/
def targetFull (b : Blk) : Blk := each (fun f b => if powered b f then setTarget f 8 b else b) (List.range (nFields b)) b

/-- A level differs from its target (R386). -/
def ramping (b : Blk) : Bool := (List.range (nFields b)).any (fun f => decide (levelOf b f ≠ targetOf b f))

/-- The ramp of the fields woken has ended, so WAKESTAT.BUSY clears (R390, R396). -/
def wakeSettle (b : Blk) : Blk :=
  let w := reg b (aB 0x1C9)
  if (List.range (nFields b)).any (fun f => bit w f && decide (levelOf b f ≠ targetOf b f)) then b
  else setReg (aB 0x1C9) (putb w 8 false) b

/-- In SAFESTOP every TARGET becomes 0 (R388, R489). -/
def targetNone (b : Blk) : Blk := wakeSettle (each (setTarget · 0) (List.range (nFields b)) b)

/-- The corrected TEMP code of field f: TOFSf added, signed, clamped to 0 to 1,022 (R377). -/
def tempCode (b : Blk) (f : Nat) (t : BitVec 10) : Nat :=
  (max 0 (min 1022 ((t.toNat : Int) + (reg b (aB (0x120 + f))).toInt))).toNat

/-- Four times the temperature that a code gives, in degrees Celsius (R377). -/
def temp4 (c : Nat) : Int := (c : Int) - 256

/-- The step that a temperature gives, the thresholds being 5 degrees apart (R377). -/
def stepFor (t4 knee4 : Int) : Nat := if t4 < knee4 then 0 else min 15 (((t4 - knee4) / 20).toNat + 1)

/-- The step after a tick: it rises to a higher threshold, and falls only 2 degrees below the present one's (R377). -/
def stepNext (cur : Nat) (t4 knee4 : Int) : Nat :=
  let want := stepFor t4 knee4
  if cur < want then want
  else if cur ≠ 0 ∧ t4 ≤ knee4 + 20 * ((cur : Int) - 1) - 8 then want else cur

/-- The thermal part of a governor tick for one field (R377, R378, R394); in WATCH there is no thermal check. -/
def govField (f : Nat) (t : BitVec 10) (b : Blk) : Blk :=
  let knee4 : Int := 4 * fld (reg b (aB 0x0C5)) 0 8
  let crit4 : Int := 4 * fld (reg b (aB 0x0C6)) 0 8
  let g := fieldOf b f
  let c := if t = 1023 then g.code else tempCode b f t
  let new := if t = 1023 then 15 else stepNext g.step (temp4 c) knee4
  let hot := if t ≠ 1023 ∧ crit4 ≤ temp4 c ∧ modeOf b ≠ 9 then g.hot + 1 else 0
  let b := if t = 1023 then orReg (aB 0x0C1) 8 b else b
  let b := onField f (fun g => { g with code := c, hot := hot }) b
  if frozen b 9 ∨ new = g.step then b else raise f 457 (onField f (fun g => { g with step := new }) b)

/-- The field that the governor steps next: the lowest one off its target that may step (R386). -/
def stepField (b : Blk) : Option Nat :=
  (List.range (nFields b)).find? (fun f =>
    decide (levelOf b f ≠ targetOf b f) &&
    !(decide (targetOf b f < levelOf b f) && decide (levelOf b f = 8) && decide (modeOf b ≠ 11) &&
      (fenBit b f || (fieldOf b f).fenEff || !((fieldOf b f).pipe.isEmpty))))

/-- One level step toward the target (R386). -/
def stepLevel (f : Nat) (b : Blk) : Blk :=
  setLevel f (if levelOf b f < targetOf b f then levelOf b f + 1 else levelOf b f - 1) b

/-- Emod of the window that ends, in sixteenths of an EU (R380): 64 ISOFS is 1,024 sixteenths for each unit of ISOFS. -/
def emodOf (b : Blk) : Nat :=
  sumN ((List.range (nFields b)).map (fun f => (fieldOf b f).emod)) + 1024 * (reg b (aB 0x129)).toNat

/-- K of a window with ISEN in force, before the clamp, from Emeas and Emod in sixteenths (R380). -/
def windowK (emeas emod : Nat) : Nat := 1024 * emeas / emod

end Sys2Proof.Machine
end

