-- ==== Sys2Proof/Machine/Modes.lean ====
section
/-! DEFINITION. Block modes and resets (chapter 16): the transitions, drain, SAFESTOP, and the cold, warm and field-wake
resets. -/

namespace Sys2Proof.Machine

/-! Steward sources and the fuse-free facts of the modes. -/

/-- The steward raises a source in the field that STW.CTL.EVF names; for an absent field the fumarole takes it (R474). -/
def stwRaise (s : Nat) (b : Blk) : Blk :=
  let f := fld (reg b (aB 0x140)) 11 3
  if nFields b ≤ f then fumarole f s true b else raise f s b

/-- FSTAT.BUSY (R52, R484; log entry 20): decided slots whose release has begun have not all been emitted. -/
def busyOf (b : Blk) (f : Nat) : Bool := !((fieldOf b f).pipe.isEmpty)

/-- Some powered field has FEN or BUSY at 1 (R481). -/
def slotsActive (b : Blk) : Bool := (List.range (nFields b)).any (fun f => powered b f && (fenBit b f || busyOf b f))

/-- Some powered field has BUSY at 1 (R484). -/
def anyBusy (b : Blk) : Bool := (List.range (nFields b)).any (fun f => powered b f && busyOf b f)

/-- Every engine has RUN = 0 (R481). -/
def allStopped (b : Blk) : Bool := (List.range (nEngines b)).all (fun e => !(runBit b e))

/-- BLK.MODESTAT.PEND: a transition, drain, wake or self-test is in progress (R495). -/
def modePend (b : Blk) : Bool :=
  b.md.warm || b.md.drainTo.isSome || decide (modeOf b = 7) || b.md.watchEntry || decide (modeOf b = 10) ||
  (decide (modeOf b = 9) && b.md.wakeReq)

/-- The mode that WATCH leaves for (R487, R495). -/
def wakeMode (b : Blk) : Nat :=
  let w := fld (reg b (aB 0x004)) 0 2
  if w = 0 then 5 else if w = 1 then 4 else 2

/-- BLK.MODEREQ as it reads (R495): the mode being worked toward, or MODE when none. -/
def modeReqRead (b : Blk) : Nat :=
  match b.md.drainTo with
  | some t => t
  | none => if b.md.watchEntry then 9 else if modeOf b = 9 ∧ b.md.wakeReq = true then wakeMode b else modeOf b

/-! Stopping engines. -/

/-- A write of RUN = 0 (R213): the engine stops at the boundary and MCHK clears. -/
def runClear (e : Nat) (b : Blk) : Blk :=
  clrReg (aE e 0x00) 0x800 (onEng e (fun x => { x with mchk := false }) b)

/-- In SAFESTOP a field that is at level 0 stops its engines (R489). -/
def stopAtZero (f : Nat) (b : Blk) : Blk :=
  if modeOf b = 11 ∧ levelOf b f = 0 then each (fun k b => runClear (8 * f + k) b) (List.range 8) b else b

/-! Links in training (R115, R119). -/

/-- The link is enabled and its role is not 3 (R110, R115). -/
def linkOn (b : Blk) (l : Nat) : Bool := bit (reg b (aL l 0)) 0 && decide (fld (reg b (aL l 0)) 2 2 ≠ 3)

/-- Link l raises its source of a kind (R119). -/
def linkRaise (l kind : Nat) (b : Blk) : Blk := raise (l / 12) (384 + 4 * (l % 12) + kind) b

/-- Link l changes state; every change raises the kind-0 source (R115). -/
def linkState (l st : Nat) (b : Blk) : Blk :=
  if (linkOf b l).st = st then b else linkRaise l 0 (onLink l (fun x => { x with st := st }) b)

/-- Link l enters TRAIN: it searches for word lock again, and LAT clears (R115, R117). -/
def linkTrain (l : Nat) (b : Blk) : Blk :=
  let b := onLink l (fun x => { x with phase := 0, run := 0, fresh := true, quiet := 0, part := none, tail := false }) (setReg (aL l 2) 0 b)
  linkState l 1 b

/-- On entry to LINKUP every enabled link trains; a link in FAULT waits for RETRAIN (R114, R115). -/
def linksTrain (b : Blk) : Blk :=
  each (fun l b => if linkOn b l && decide ((linkOf b l).st ≠ 3) then linkTrain l b else b) (List.range (nLinks b)) b

/-! Entering a mode. -/

/-- FCFG.FEN has gone to 0: where it was in effect, the clearing takes effect at the next boundary, whatever is written before
then (R52, R578). -/
def fenCleared (f : Nat) (b : Blk) : Blk := onField f (fun g => { g with fenDrop := g.fenEff }) b

/-- Clear FCFG.FEN in every field (R484, R489). -/
def clearFens (b : Blk) : Blk := each (fun f b => fenCleared f (clrReg (aF f 0x000) 1 b)) (List.range (nFields b)) b

/-- TB.STAT.LOCK and ACQ on a change from mode `old` to `m` (R577, R64): LOCK survives only LOCKED to DRAIN and the entry to
HOLD from either; ACQ is 1 throughout ACQUIRE. -/
def lockOnChange (old m : Nat) (b : Blk) : Blk :=
  let keep := (old = 6 ∨ old = 7 ∨ old = 5) ∧ (m = 6 ∨ m = 7 ∨ m = 8)
  let b := if keep then b else clrReg (aB 0x041) 1 b
  if m = 5 then orReg (aB 0x041) 2 (onTb (fun t => { t with run := 0, first := true, misses := 0 }) b)
  else clrReg (aB 0x041) 2 b

/-- The block changes mode (R481, R495): PREV, LOCK and ACQ, the targets of ACQUIRE (R388), STRESULT on entry to SELFTEST
(R488), and source 485. In every mode but WATCH and SAFESTOP the field clocks run (R479, R487). -/
def enterMode (m : Nat) (b : Blk) : Blk :=
  let old := modeOf b
  let b := setReg (aB 0x000) (BitVec.ofNat 14 (16 * old + m)) b
  let b := lockOnChange old m b
  let b := if m = 5 then targetFull b else b
  let b := if m = 10 then setReg (aB 0x00A) 0 b else b
  let b := if m = 3 ∧ old ≠ 3 then linksTrain b else b
  let b := if m = 9 ∨ m = 11 then b else { b with fields := mapAll (fun g => { g with clk := true }) b.fields }
  if old = m then b else stwRaise 485 b

/-- SLEEPLO counts on while the block is in WATCH (R362): by a free number, the saturation being an event of its own (log entry 118). -/
def sleepOn (b : Blk) : Blk :=
  if modeOf b = 9 then
    let n := takeFree b
    onMd (fun m => { m with sleep := max m.sleep (min (2 ^ 28 - 2) (m.sleep + Config.freeSleep n.1)) }) n.2
  else b

/-- Entry to SAFESTOP (R489); with `kill`, every level drops to 0 at once (R388). -/
def safeStop (kill : Bool) (b : Blk) : Blk :=
  let b := sleepOn b
  let b := if kill then
      orReg (aB 0x005) 0x40 (orReg (aB 0x0C1) 0x20
        (each (fun f b => setLevel f 0 b) (List.range (nFields b)) b))
    else b
  let b := targetNone (clearFens b)
  let b := onMd (fun m => { m with drainTo := none, drainWait := false, watchEntry := false }) b
  let b := if modeOf b = 11 then b else enterMode 11 b
  each stopAtZero (List.range (nFields b)) b

/-- A request or a RSTCTL write is rejected (R481, R491). -/
def rejectMode (b : Blk) : Blk := orReg (aB 0x003) 1 b

/-- A row of the transition table for a request from mode `m` for mode `t` (R481). -/
def requestRow (m t : Nat) : Bool :=
  if m = 0 ∨ m = 1 then false
  else if t = 11 then decide (m < 11)
  else if m = 2 then decide (t = 3 ∨ t = 4 ∨ t = 5 ∨ t = 10)
  else if m = 3 then decide (t = 2 ∨ t = 4 ∨ t = 5)
  else if m = 4 then decide (t = 5 ∨ t = 2 ∨ t = 3 ∨ t = 9)
  else if m = 5 then decide (t = 4 ∨ t = 2 ∨ t = 3 ∨ t = 9)
  else if m = 6 then decide (t = 5 ∨ t = 2 ∨ t = 3 ∨ t = 9)
  else if m = 11 then decide (t = 2)
  else false

/-- The extra conditions of a request: SELFTEST needs every engine stopped (R481); CONFIG from SAFESTOP needs KILL_N high,
no field at or above TCRIT and no ramp (R489). -/
def requestAllowed (b : Blk) (t : Nat) : Bool :=
  if t = 10 then allStopped b
  else if modeOf b = 11 ∧ t = 2 then
    !(b.md.killLow) && !(ramping b) &&
    (List.range (nFields b)).all (fun f => decide ((fieldOf b f).hot = 0))
  else true

/-- A mode request (R481): whether it is accepted, and the block. In WATCH the code of WAKEMODE requests a wake (R487). -/
def modeReq (t : Nat) (b : Blk) : Bool × Blk :=
  let m := modeOf b
  if modePend b then (false, rejectMode b)
  else if m = 9 ∧ t = wakeMode b then (true, onMd (fun x => { x with wakeReq := true }) b)
  else if requestRow m t = false ∨ requestAllowed b t = false then (false, rejectMode b)
  else if t = 11 then (true, safeStop false b)
  else if (m = 4 ∨ m = 5 ∨ m = 6) ∧ (t = 2 ∨ t = 3 ∨ t = 9) ∧ slotsActive b = true then
    (true, onMd (fun x => { x with drainTo := some t, drainWait := true }) b)
  else if t = 9 then (true, onMd (fun x => { x with watchEntry := true }) b)
  else (true, enterMode t b)

/-- Engine e no longer waits for its reads of the host window: their responses will be discarded. -/
def hmForget (e : Nat) (b : Blk) : Blk :=
  onHost (fun h => { h with hm := h.hm.map (fun q => if q.m = .engine e ∧ q.wr = false then { q with dead := true } else q) }) b

/-! The sinter on a stop (R423). -/

/-- Write a shadow cell back with fresh check bits (R419). -/
def restoreCell (f i : Nat) (b : Blk) : Blk :=
  let g := fieldOf b f
  let off := 32 * g.sinter.block + i
  putWord (.fieldMem f off) (wordOf (nth absentCell g.sinter.shadow i)) (cancelBack f off b)

/-- The sinter restores its block in hand without a retry, and starts again at block 0 (R423). -/
def sinterHome (f : Nat) (b : Blk) : Blk :=
  let s := (fieldOf b f).sinter
  let ix := (List.range 32).filter (fun i => (shadowIdx (fieldOf b f) (32 * s.block + i)).isSome)
  onField f (fun g => { g with sinter := Sinter.cold }) (each (restoreCell f) ix b)

/-! Power-off (R389, R494). -/

/-- The fields that a wake names: FMASK and the fields of the hit entries (R390). -/
def wakeFields (b : Blk) : List Nat :=
  (List.range (nFields b)).filter (fun f =>
    bit (reg b (aB 0x1C8)) f ||
    (List.range 32).any (fun j => bit (reg b (aB (0x1C0 + j / 14))) (j % 14) && bit (reg b (aB (0x1E0 + j))) 13 &&
      decide (fld (reg b (aB (0x1E0 + j))) 10 3 = f)))

/-- The governor may release field f: no wake powers it up, and it is powered at level 0 with target 0, its FPWR bit is 0, and outside SAFESTOP it has
neither FEN nor BUSY (R386, R389, R494). -/
def mayRelease (b : Blk) (f : Nat) : Bool :=
  powered b f && decide (levelOf b f = 0) && decide (targetOf b f = 0) && !(bit (reg b (aB 0x007)) f) &&
  !(b.md.wakeReq && (wakeFields b).contains f) && decide (modeOf b ≠ 9) && (decide (modeOf b = 11) || !(fenBit b f || busyOf b f))

/-- The governor lowers PSW_REQ of every field that it may release (R389). -/
def powerRelease (b : Blk) : Blk :=
  { b with pswReq := b.pswReq &&& ~~~ (BitVec.ofNat 8 (sumN ((List.range (nFields b)).map (fun f => 2 ^ f * b2n (mayRelease b f))))) }

/-! Resets (R490). -/

/-- A context after a warm reset (R182). -/
def Ctx.warm (c : Ctx) : Ctx := { c with state := 0, spois := false, mip := false, mprog := 0, mfree := false, dgrp := 0, rgrp := 0, data := [], ret := [], sylb := false }

/-- An engine after a warm reset (R182, R213, R234): no context runs, no sequence or long operation survives. Stores already
committed stay in the store buffer until they drain (log entry 24). -/
def Engine.warm (x : Engine) : Engine :=
  { Engine.cold with ctxs := mapAll Ctx.warm x.ctxs, sbuf := x.sbuf, dfpc := x.dfpc, cyc := x.cyc, dlDone := x.dlDone }

/-- A field after a warm reset: the slot path empty, every source at rest, the ledger at 0; power, tags, the temperature
step and its code are kept (R363, R376, R394, R490). -/
def Field.warm (g : Field) : Field :=
  { Field.cold with
    pwr := g.pwr, clk := true, clearing := g.clearing, bq := g.bq, due := g.due, cur := g.cur, tags := g.tags,
    posWarm := true, kUsed := g.kUsed, step := g.step, code := g.code, bad := g.bad, ctrl := g.ctrl, fclk := g.fclk }

/-- A link after a warm reset: an enabled link retrains at once, the others are DOWN (R490). -/
def Link.warm (on : Bool) : Link := if on then { Link.cold with st := 1 } else Link.cold

/-- Apply the warm values to the registers (R15). -/
def warmRegs (b : Blk) : Blk := each (fun e c => setReg e.1 (warmVal e.1 (reg b e.1)) c) b.regs b

/-- The RSTCAUSE bit of a warm and of a cold reset (R495). -/
def warmCauseBit : ResetCause → BitVec 14
  | .pin => 0x02
  | .software => 0x08
  | .debug => 0x20
def coldCauseBit : ResetCause → BitVec 14
  | .pin => 0x01
  | .software => 0x04
  | .debug => 0x10

/-- A debug access not yet made when a reset starts completes with RESULT 5 (R579). -/
def accAbort (b : Blk) : Blk :=
  if b.tap.acc.pend.isSome then
    { b with tap := { b.tap with acc := { b.tap.acc with pend := none, result := 5, cell := absentCell } } }
  else b

/-- The host ports at a reset other than PORESET_N (R579): outstanding master requests are abandoned and their responses will be
discarded; target requests not yet made are answered REFUSED. -/
def hostReset (h : HostP) : HostP :=
  { hm := [], drop := h.drop + min 8 h.hm.length, htq := [],
    rsp := if h.htq.isEmpty then h.rsp
      else h.htq.map (fun q => if q.2.2.isSome then { a := clean 0, b := clean 0, err := 1 }
        else { a := absentCell, b := if q.2.1 then absentCell else clean 0, err := 1 }) }

/-- The latches of the ledger's wide registers do not survive a warm reset; the timebase's and the cycle counters' do
(R86, R213, R394). A latch is keyed by 128 times its address plus its master. -/
def warmLatch (m : KMap (BitVec 14)) : KMap (BitVec 14) :=
  m.filter (fun e => !(decide (0x0F10000 * 128 ≤ e.1 ∧ e.1 < 0x0F20000 * 128)))

/-- A warm reset starts (R493): the warm values hold from here, the mode is CONFIG, and PEND reads 1 until it ends. -/
def warmReset (cause : ResetCause) (b : Blk) : Blk :=
  let b := sleepOn (accAbort b)
  let b := each (fun f b => if powered b f then sinterHome f b else b) (List.range (nFields b)) b
  let b := stwRaise 485 b
  let old := modeOf b
  let b := warmRegs { b with latch := warmLatch b.latch }
  let b := setReg (aB 0x000) (BitVec.ofNat 14 (16 * old + 2)) b
  let b := orReg (aB 0x005) (warmCauseBit cause) b
  let ons : Fixed Bool 96 := mapAll (linkOn b) ⟨List.range 96, List.length_range⟩
  let b := each (fun l b => if linkOn b l then setReg (aL l 2) 0 b else b) (List.range (nLinks b)) b
  { b with
    fields := mapAll Field.warm b.fields, engines := mapAll Engine.warm b.engines, links := mapAll Link.warm ons,
    tb := { b.tb with
            run := 0, first := true, misses := 0, gwait := none, capRd := [], decq := [],
            dec := Tb.cold.dec },
    stw := { Stw.cold with cmdNum := b.stw.cmdNum }, host := hostReset b.host,
    mc := { b.mc with busy := false }, gov := { Gov.cold with isen := b.gov.isen },
    md := { Md.cold with
            warm := true, fuseWait := false, clearWait := false, fabClear := b.md.fabClear,
            killLow := b.md.killLow, sleep := b.md.sleep },
    fabSwap := none, statCnt := 0 }

/-- A field at the start of a cold reset: a field without power asks for it and is cleared when it comes (R501). -/
def Field.coldOf (g : Field) : Field :=
  { Field.cold with pwr := if g.pwr = .on ∨ g.pwr = .waking then .on else .rising, bad := g.bad, ctrl := g.ctrl, fclk := g.fclk }

/-- The registers that a cold reset leaves: those of the debug island (R553). -/
def keepDbg (m : KMap (BitVec 14)) : KMap (BitVec 14) :=
  m.filter (fun e => decide (0x0F00300 ≤ e.1 ∧ e.1 < 0x0F00400))

/-- A cold reset (R490, R491): everything but the debug island returns to its cold value, the memories clear, and the mode
is COLD. PSW_REQ rises for every present field, but for one whose PSW_ACK has still to fall (R506). -/
def coldReset (cause : ResetCause) (b : Blk) : Blk :=
  let b := accAbort b
  let req := sumN ((List.range (nFields b)).map (fun f =>
    2 ^ f * b2n ((fieldOf b f).pwr != .on || bit b.pswReq f)))
  let c : Blk := { Blk.reset with
    cfg := b.cfg, pswReq := BitVec.ofNat 8 req, regs := keepDbg b.regs, fields := mapAll Field.coldOf b.fields, tap := b.tap, auth := b.auth,
    trace := b.trace, mc := Mc.cold,
    md := { Md.cold with killLow := b.md.killLow }, free := b.free, stuck := b.stuck,
    tb := { Tb.cold with lastMark := b.tb.lastMark }, host := hostReset b.host }
  setReg (aB 0x000) 1 (setReg (aB 0x005) (coldCauseBit cause) c)

/-- PORESET_N asserted (R481, R501, R505, R579): the block is OFF, every access ends, the outputs take their reset values. -/
def powerOff (b : Blk) : Blk :=
  let c := coldReset .pin b
  setReg (aB 0x000) 0 (setReg (aB 0x005) 0
    { c with md := { c.md with off := true, dark := b.md.dark }, host := HostP.cold, pswReq := BitVec.ofNat 8 (2 ^ nFields b - 1) })

/-- The cold values of the registers and latches of field f and its engines (R490). -/
def clearFieldRegs (f : Nat) (b : Blk) : Blk :=
  { b with
    regs := kclear (kclear b.regs (aF f 0) (aF (f + 1) 0)) (aE (8 * f) 0) (aE (8 * f + 8) 0)
    latch := kclear (kclear b.latch (128 * aF f 0) (128 * aF (f + 1) 0)) (128 * aE (8 * f) 0) (128 * aE (8 * f + 8) 0) }

/-- Clear the memories of field f to the all-zero word (R410). -/
def clearFieldMem (f : Nat) (b : Blk) : Blk :=
  let m := kclear b.mem (f * 0x10000) ((f + 1) * 0x10000)
  let m := kclear m (0x80000 + f * 0x8000) (0x80000 + (f + 1) * 0x8000)
  let m := kclear m (0x100000 + f * 0x20000) (0x100000 + (f + 1) * 0x20000)
  let m := kclear m (0x200000 + f * 0x800) (0x200000 + (f + 1) * 0x800)
  { b with mem := kclear m (0x220000 + f * 0x400) (0x220000 + (f + 1) * 0x400) }

/-- The field-wake reset of field f starts (R490, R507): registers cold, memories clearing, engines cold, level 0. The
block's alignment latency stays, though it stands at F0's address (R128). -/
def fieldWake (f : Nat) (b : Blk) : Blk :=
  let a := reg b (aF 0 0x042)
  let b := clearFieldMem f (clearFieldRegs f b)
  let b := setReg (aF 0 0x042) a b
  let b := onField f (fun g => { Field.cold with
    pwr := .waking, clk := g.clk, bad := g.bad, ctrl := g.ctrl, fclk := g.fclk, cur := g.cur, tags := g.tags, step := g.step, code := g.code,
    kUsed := fld (reg b (aB 0x0C9)) 0 12 }) b
  let b := each (fun k b => hmForget (8 * f + k) (onEng (8 * f + k) (fun _ => Engine.cold) b)) (List.range 8) b
  setLevel f 0 b

end Sys2Proof.Machine
end

