-- ==== Sys2Proof/Machine/Timebase.lean ====
section
/-! DEFINITION. The beam timebase (chapter 2): slot and sweep counting, lock, captures, global start, the WATCH make-up, the
interval timers of the fields, and the TB registers with side effects. -/

namespace Sys2Proof.Machine

/-! Counting (R57 to R62). -/

/-- The timebase counts slots in this mode (R62). -/
def counting (b : Blk) : Bool := decide (modeOf b ≠ 0) && decide (modeOf b ≠ 1) && decide (modeOf b ≠ 8) && decide (modeOf b ≠ 9)

/-- The slot number that R58 gives the next boundary. -/
def nextSlot (t : Tb) : Nat := if t.slot.toNat < t.spsEff - 1 then t.slot.toNat + 1 else 0

/-- MARKOFS mod SPS (R64, R66). -/
def markSlot (b : Blk) : Nat := (reg b (aB 0x043)).toNat % b.tb.spsEff

/-- Declare lock at the boundary that comes (R65): LOCK sets, ACQ clears, source 448 is raised, and ACQUIRE becomes LOCKED (R481). -/
def declareLock (b : Blk) : Blk :=
  let b := raiseSlot 448 (b.tb.seq + 1) (clrReg (aB 0x041) 2 (orReg (aB 0x041) 1 b))
  if modeOf b = 5 then enterMode 6 b else b

/-- Lose lock in the slot of boundary `seq` (R67): LOCK clears, LOST sets, source 448 is raised, and LOCKED becomes ACQUIRE (R481). -/
def loseLock (seq : Nat) (b : Blk) : Blk :=
  let b := raiseSlot 448 seq (orReg (aB 0x041) 4 (clrReg (aB 0x041) 1 b))
  if modeOf b = 6 then enterMode 5 b else b

/-- Count a miss at the marker slot (R66). -/
def missMarker (b : Blk) : Blk :=
  let b := count (aB 0x04E) (onTb (fun t => { t with misses := t.misses + 1 }) b)
  if max 1 (fld (reg b (aB 0x044)) 6 4) ≤ b.tb.misses then loseLock (b.tb.seq + 1) b else b

/-- Lock checking or acquisition at a boundary whose slot is `b.tb.slot` by R58; `isMark` says that it is a marker slot.
`n0` is the slot that R58 gave and
`mo` MARKOFS mod SPS (R64 to R66). -/
def lockAtBoundary (isMark : Bool) (n0 mo : Nat) (b : Blk) : Blk :=
  if modeOf b = 5 then
    if isMark then
      let good := decide (n0 = mo) && !(b.tb.first)
      let b := if good then onTb (fun t => { t with run := t.run + 1 }) b
        else
          let jump := b.tb.first = false ∨ n0 ≠ mo
          let b := if b.tb.first then b else count (aB 0x04F) b
          let b := if jump then orReg (aB 0x041) 0x10 b else b
          onTb (fun t => { t with run := 1, first := false }) b
      if max 1 (fld (reg b (aB 0x044)) 0 6) ≤ b.tb.run then declareLock b else b
    else b
  else if (modeOf b = 6 ∨ modeOf b = 7) ∧ locked b = true then
    if n0 = mo then
      if isMark then onTb (fun t => { t with misses := 0 }) b else missMarker b
    else if isMark then loseLock (b.tb.seq + 1) b else b
  else b

/-- A marker resynchronises the slot counter in ACQUIRE (R64): the first marker always does, any other when it does not
conform. -/
def resyncs (b : Blk) (isMark : Bool) (n0 mo : Nat) : Bool :=
  isMark && decide (modeOf b = 5) && (b.tb.first || decide (n0 ≠ mo))

/-- A sweep boundary (R58, R59, R71): the sweep counter is loaded or increments; sources and WRAP28. -/
def sweepBoundary (b : Blk) : Blk :=
  if bit (reg b (aB 0x040)) 0 then
    let b := clrReg (aB 0x040) 1 (onTb (fun t => { t with sweep := regPair b (aB 0x04A) }) b)
    if lo14 b.tb.sweep = 0 then raiseSlot 449 (b.tb.seq + 1) b else b
  else
    let b := onTb (fun t => { t with sweep := t.sweep + 1 }) b
    let b := if b.tb.sweep = 0 then orReg (aB 0x041) 8 b else b
    if lo14 b.tb.sweep = 0 then raiseSlot 449 (b.tb.seq + 1) b else b

/-- RUNTIME at a boundary (R60). -/
def runtimeTick (b : Blk) : Blk :=
  if bit (reg b (aB 0x040)) 1 then clrReg (aB 0x040) 2 (onTb (fun t => { t with runtime := 0 }) b)
  else onTb (fun t => { t with runtime := t.runtime + 1 }) b

/-- DRAIN is entered at this boundary (R484). -/
def drainAt (b : Blk) : Blk :=
  if b.md.drainWait then
    onMd (fun m => { m with drainWait := false }) (clearFens (if (modeOf b = 4 ∨ modeOf b = 5 ∨ modeOf b = 6) then enterMode 7 b else b))
  else b

/-- A pending global release counts this boundary; at the second the tag carries it (R82). -/
def gstartAt (b : Blk) : Blk × Option (BitVec 8 × BitVec 4) :=
  match b.tb.gwait with
  | none => (b, none)
  | some (n, fm, tm) =>
    if n ≤ 1 then
      (setReg (aB 0x052) (lo14 b.tb.sweep) (setReg (aB 0x051) b.tb.slot (onTb (fun t => { t with gwait := none }) b)), some (fm, tm))
    else (onTb (fun t => { t with gwait := some (n - 1, fm, tm) }) b, none)

/-- The no-lock flag of a boundary (R482). -/
def nolockFlag (b : Blk) : Bool :=
  decide (modeOf b = 5) || ((decide (modeOf b = 6) || decide (modeOf b = 7)) && !(locked b))

/-- The boundary reaches the islands (R25, R61): each field whose clock runs, and the fabric. -/
def launch (t : Tag) (b : Blk) : Blk :=
  let b := each (fun f b => if clocked b f then onField f (fun g => { g with bq := g.bq ++ [t] }) b else b)
    (List.range (nFields b)) b
  onTb (fun x => { x with seq := t.seq, hist := kput x.hist t.slot.toNat t.sweep }) b

/-- A capture-set read that NOBCLK held back clears NEW at this edge, the one that clears NOBCLK, before a capture at it (R56; log
entry 102). -/
def lateCapReads (b : Blk) : Blk :=
  onTb (fun t => { t with capRd := [] }) (each (fun k b => clrReg (aB (0x063 + 4 * k)) 1 b) b.tb.capRd b)

/-- A rising edge of BCLK with SWEEP_MARK at `mark` (R55, R58 to R61, R82): the counters advance and the boundary is
launched. Answers the block and the tag launched, none where the timebase does not count. In ACQUIRE a marker is judged by the
SPS in effect before the boundary, and a first marker that loads slot 0 where R58 gives 0 too is a sweep boundary (log entry
101). -/
def tbEdge (mark : Bool) (b : Blk) : Blk × Option Tag :=
  let isMark := mark && !(b.tb.lastMark)
  let b := lateCapReads (clrReg (aB 0x041) 0x100 (onTb (fun t => { t with lastMark := mark }) b))
  if counting b then
    let b := drainAt b
    let n0 := nextSlot b.tb
    let newSps := (reg b (aB 0x042)).toNat
    let mo := if n0 = 0 ∧ modeOf b ≠ 5 then (reg b (aB 0x043)).toNat % newSps else markSlot b
    let rs := resyncs b isMark n0 mo
    let sweepStart := decide (n0 = 0) && !(rs && decide (mo ≠ n0))
    let b := onTb (fun t => { t with
      slot := BitVec.ofNat 14 (if rs then mo else n0), spsEff := if sweepStart then newSps else t.spsEff }) b
    let b := if sweepStart then sweepBoundary b else b
    let b := runtimeTick b
    let b := lockAtBoundary isMark n0 mo b
    let g := gstartAt b
    let b := g.1
    let rel := g.2.getD (0, 0)
    let t : Tag := { slot := b.tb.slot, sweep := b.tb.sweep, nolock := nolockFlag b, sweepStart := sweepStart,
                     seq := b.tb.seq + 1, sps := b.tb.spsEff, relF := rel.1, relT := rel.2 }
    (launch t b, some t)
  else (b, none)

/-- What a boundary that came next would be, without a marker: its slot number, and whether it starts a sweep. -/
def comingSlot (b : Blk) : Nat := nextSlot b.tb

/-! Captures (R72 to R74). -/

/-- A selected edge of CAPk, sampled at the BCLK edge that began the present slot (R72, R73). Source 450 is raised as NEW goes from 0
to 1, and 451 as OVR does (R74). The inputs are sampled in every mode but OFF (log entry 103). -/
def captureEdge (k : Nat) (rising : Bool) (b : Blk) : Blk :=
  let st := reg b (aB (0x063 + 4 * k))
  let sel := if rising then bit st 2 else bit st 3
  if sel ∧ modeOf b ≠ 0 ∧ nobclk b = false then
    let old := bit st 0
    let ovr := bit st 1
    let b := setReg (aB (0x060 + 4 * k)) b.tb.slot b
    let b := setReg (aB (0x061 + 4 * k)) (lo14 b.tb.sweep) b
    let b := setReg (aB (0x062 + 4 * k)) (hi14 b.tb.sweep) b
    let b := orReg (aB (0x063 + 4 * k)) (if old then 3 else 1) b
    if old ∧ ovr then b else raiseSlot (if old then 451 else 450) b.tb.seq b
  else b

/-- A read of TB.CAPkSLOT (R73, R56): the slot, with NEW cleared; where NOBCLK is 1, NEW clears at the next BCLK edge. -/
def capslotRead (k : Nat) (b : Blk) : BCell × Blk :=
  (clean (reg b (aB (0x060 + 4 * k))),
   if nobclk b then onTb (fun t => { t with capRd := t.capRd ++ [k] }) b else clrReg (aB (0x063 + 4 * k)) 1 b)

/-! Writes of TB registers (R57, R59, R60, R82, R83). -/

/-- A write of TB.SPS (R57): 0 and 1 store 2; outside CONFIG, LINKUP and FREERUN it is ignored and sets SPSWR. -/
def spsWrite (v : BitVec 14) (b : Blk) : Blk :=
  if modeOf b = 2 ∨ modeOf b = 3 ∨ modeOf b = 4 then setReg (aB 0x042) (if v.toNat < 2 then 2 else v) b
  else orReg (aB 0x041) 0x40 b

/-- The slot and the sweep bits 13:0 two boundaries on, under R58 (R82). -/
def twoOn (t : Tb) : BitVec 14 × BitVec 14 :=
  let s1 := nextSlot t
  let w1 := if s1 = 0 then t.sweep + 1 else t.sweep
  let s2 := if s1 < t.spsEff - 1 then s1 + 1 else 0
  let w2 := if s2 = 0 then w1 + 1 else w1
  (BitVec.ofNat 14 s2, lo14 w2)

/-- A write of TB.GSTART (R82, R83): a zero mask schedules nothing; a write while PEND is 1 is ignored and sets GSWR. -/
def gstartWrite (v : BitVec 14) (b : Blk) : Blk :=
  let fm := v.extractLsb' 4 8
  let tm := v.extractLsb' 0 4
  if fm = 0 ∨ tm = 0 then b
  else if b.tb.gwait.isSome then orReg (aB 0x041) 0x80 b
  else
    let x := twoOn b.tb
    setReg (aB 0x052) x.2 (setReg (aB 0x051) x.1 (onTb (fun t => { t with gwait := some (2, fm, tm) }) b))

/-! NOBCLK (R56). -/

/-- NOBCLK sets after 2 slow ticks without a BCLK edge; a held lock is lost (R56). -/
def nobclkSets (b : Blk) : Blk :=
  let b := orReg (aB 0x041) 0x100 b
  if locked b then loseLock b.tb.seq b else b

/-! The make-up after WATCH (R84). -/

/-- The slots that `t` slow ticks are worth (R84). -/
def makeupSlots (b : Blk) (t : Nat) : Nat := t * (regPair b (aB 0x04C)).toNat / 1024

/-- The make-up of the counters by m slots (R84). -/
def makeup (m : Nat) (b : Blk) : Blk :=
  let q := b.tb.slot.toNat + m
  let dsw := q / b.tb.spsEff
  let old := b.tb.sweep.toNat
  let b := onTb (fun t => { t with
    runtime := t.runtime + BitVec.ofNat 28 m, slot := BitVec.ofNat 14 (q % t.spsEff),
    sweep := t.sweep + BitVec.ofNat 28 dsw }) b
  let b := orReg (aB 0x041) 0x20 b
  let b := if old / 16384 < (old + dsw) / 16384 then raiseFields 449 b else b
  if 2 ^ 28 ≤ old + dsw then orReg (aB 0x041) 8 b else b

/-! Interval timers (R76 to R82). -/

def tmrCtl (b : Blk) (f k : Nat) : BitVec 14 := reg b (aF f (0x140 + 4 * k))

/-- A tick of timer k of field f (R78, R341): the count, a fire with source 464 + k, and the ageing of the geyser sources. -/
def timerTick (f k : Nat) (b : Blk) : Blk :=
  let a := aF f (0x140 + 4 * k)
  let per := (reg b (a + 2)).toNat
  let cnt := (reg b (a + 3)).toNat
  let b := onField f (fun g => { g with pre := upd (fun _ => 0) g.pre k }) b
  if per ≤ cnt then
    let b := if per < cnt then orReg a 8 b else b
    let b := setReg (a + 3) 0 b
    let b := if bit (reg b a) 1 then clrReg a 1 b else b
    raise f (464 + k) (ageSources f k b)
  else ageSources f k (setReg (a + 3) (BitVec.ofNat 14 (cnt + 1)) b)

/-- One source event of timer k: the prescaler counts to TMRkPRE and then gives a tick (R77). -/
def timerEvent (f k : Nat) (b : Blk) : Blk :=
  let p := nth 0 (fieldOf b f).pre k
  if (reg b (aF f (0x141 + 4 * k))).toNat ≤ p then timerTick f k b
  else onField f (fun g => { g with pre := upd (fun x => (x + 1) % 16384) g.pre k }) b

/-- Timer k of field f is enabled, its field runs, and no freeze holds it (R81, R548). -/
def timerRuns (b : Blk) (f k : Nat) : Bool := bit (tmrCtl b f k) 0 && clocked b f && !(frozen b f)

/-- Boundary `t` releases timer k of field f (R82). -/
def releases (f k : Nat) (t : Tag) : Bool := bit t.relF f && bit t.relT k

/-- The timers with SRC = 0 at a slot boundary (R76). One that this boundary releases starts counting at the next (R79, R82). -/
def timersBoundary (f : Nat) (t : Tag) (b : Blk) : Blk :=
  each (fun k b => if releases f k t = false ∧ timerRuns b f k ∧ bit (tmrCtl b f k) 2 = false then timerEvent f k b else b)
    (List.range 4) b

/-- COUNT and the prescaler of timer k return to 0 (R79). -/
def timerZero (f k : Nat) (b : Blk) : Blk :=
  onField f (fun g => { g with pre := upd (fun _ => 0) g.pre k }) (setReg (aF f (0x143 + 4 * k)) 0 b)

/-- A write of TMRkCTL (R79): EN changing from 0 to 1 sets COUNT and the prescaler to 0. -/
def tmrCtlWrite (f k : Nat) (v : BitVec 14) (b : Blk) : Blk :=
  let on := !(bit (tmrCtl b f k) 0) && bit v 0
  let b := plainWrite (aF f (0x140 + 4 * k)) v b
  if on then timerZero f k b else b

/-- A global release at a boundary whose tag names field f (R82): each timer of the mask is reset and enabled. -/
def releaseTimers (f : Nat) (t : Tag) (b : Blk) : Blk :=
  each (fun k b => if releases f k t then orReg (aF f (0x140 + 4 * k)) 1 (timerZero f k b) else b) (List.range 4) b

end Sys2Proof.Machine
end

