-- ==== Sys2Proof/Machine/Wire.lean ====
section
/-! DEFINITION. Link words and frames (R88 to R106) and the compander (R108): fields of words, the CRC, the cells of payload
words, and the words of a frame as it is sent. -/

namespace Sys2Proof.Machine

/-! Words (R88, R93, R114). -/

def wKind (w : BitVec 64) : Nat := fld w 60 4
def wP (w : BitVec 64) : Bool := bit w 59
def wC (w : BitVec 64) : Bool := bit w 58
def wBody (w : BitVec 64) : BitVec 56 := w.extractLsb' 0 56
/-- A word of a kind with P and a body; C and the reserved bits are 0. -/
def mkWord (kind : Nat) (p : Bool) (body : BitVec 56) : BitVec 64 :=
  BitVec.ofNat 4 kind ++ (if p then (8 : BitVec 4) else 0) ++ body

def hDest (h : BitVec 56) : BitVec 16 := h.extractLsb' 40 16
def hSrc (h : BitVec 56) : BitVec 16 := h.extractLsb' 24 16
def hTag (h : BitVec 56) : BitVec 14 := h.extractLsb' 10 14
def hType (h : BitVec 56) : Nat := fld h 5 5
def hHop (h : BitVec 56) : Nat := fld h 0 5
def hdrBody (dest src : BitVec 16) (tag : BitVec 14) (typ hop : Nat) : BitVec 56 :=
  dest ++ src ++ tag ++ BitVec.ofNat 5 typ ++ BitVec.ofNat 5 hop

def tCrc (t : BitVec 56) : BitVec 32 := t.extractLsb' 24 32
def tSeq (t : BitVec 56) : BitVec 14 := t.extractLsb' 10 14
def tBc (t : BitVec 56) : Bool := bit t 9
def tCredit (t : BitVec 56) : Nat := fld t 0 9

/-! Cells of a payload word (R89, R90). -/

/-- Cell i of a body, cell 0 standing highest (R89). -/
def bodyCell (w : BitVec 56) (i : Nat) : BitVec 14 := w.extractLsb' (42 - 14 * i) 14

/-- The four cells of a payload word, each with the word's P (R90). -/
def bodyCells (w : BitVec 56 × Bool) : List BCell := (List.range 4).map (fun i => { v := bodyCell w.1 i, p := w.2 })

def payCells : List (BitVec 56 × Bool) → List BCell
  | [] => []
  | w :: ws => bodyCells w ++ payCells ws

/-- The body of four cells. -/
def body4 (a b c d : BitVec 14) : BitVec 56 := a ++ b ++ c ++ d

/-- Cells packed four to a word; unused cells are 0, and a word carries P when a cell of it does (R89, R90). -/
def packCells : List BCell → List (BitVec 56 × Bool)
  | [] => []
  | [a] => [(body4 a.v 0 0 0, a.p)]
  | [a, b] => [(body4 a.v b.v 0 0, a.p || b.p)]
  | [a, b, c] => [(body4 a.v b.v c.v 0, a.p || b.p || c.p)]
  | a :: b :: c :: d :: r => (body4 a.v b.v c.v d.v, a.p || b.p || c.p || d.p) :: packCells r

/-! CRC-32 (R106). -/

def crcBit (r : BitVec 32) : BitVec 32 := if bit r 0 then (r >>> 1) ^^^ 0xEDB88320 else r >>> 1

/-- One byte into the reflected register. -/
def crcByte (r : BitVec 32) (x : BitVec 8) : BitVec 32 := times crcBit 8 (r ^^^ x.setWidth 32)

/-- The seven bytes of a body, bits 55:48 first. -/
def crcBody (r : BitVec 32) (w : BitVec 56) : BitVec 32 :=
  (List.range 7).foldl (fun r i => crcByte r (w.extractLsb' (48 - 8 * i) 8)) r

/-- The CRC of a header, whose HOP is taken as 0, and its payload (R106). -/
def frameCrc (h : BitVec 56) (pay : List (BitVec 56)) : BitVec 32 :=
  ~~~ (pay.foldl crcBody (crcBody 0xFFFFFFFF (h &&& 0xFFFFFFFFFFFFE0)))

/-- The words of a frame sent with a SEQ and a CREDIT; every word of a PRIM frame goes out with P = 0 (R90, R93). -/
def frameWords (x : Frame) (seq : BitVec 14) (credit : Nat) : WireFrame :=
  let h := hdrBody x.dest x.src x.tag x.typ x.hop
  { hdr := mkWord 1 false h
    pay := x.pay.map (fun w => mkWord 2 (w.2 && decide (x.typ ≠ 4)) w.1)
    trl := some (mkWord 3 false (frameCrc h (x.pay.map (fun w => w.1)) ++ seq ++ BitVec.ofNat 1 (b2n x.bc) ++ BitVec.ofNat 9 credit)) }

/-- The words of a frame on the wire: its header, payload and trailer words (R112). -/
def frameLen (x : Frame) : Nat := 2 + x.pay.length

/-! The compander (R108). -/

/-- The code of a value. -/
def compandOf (v : Nat) : Nat :=
  if v < 128 then v
  else if v < 256 then 128 + (v - 128)
  else (bitlen v - 7) * 128 + (v / 2 ^ (bitlen v - 8) - 128)

/-- The value of a code. -/
def expandOf (c : Nat) : Nat :=
  let k := c / 128 % 8
  let m := c % 128
  if k = 0 then m else if k = 1 then 128 + m else (128 + m) * 2 ^ (k - 1) + 2 ^ (k - 2)

/-- The five codes of a RUNC word, code 0 in bits 49:40 (R99). -/
def runcCodes (w : BitVec 56) : List Nat := (List.range 5).map (fun i => fld w (40 - 10 * i) 10)

end Sys2Proof.Machine
end

