-- ==== Sys2Proof/Machine/Align.lean ====
section
/-! DEFINITION. Alignment (R128 to R137): the poison marks of the slots, the classification of frames by tag, suspect
intervals, and the alignment buffer. -/

namespace Sys2Proof.Machine

/-! Slots as the field sees them. -/

/-- The effective slots per sweep at the boundary the field processed last, at least 1. -/
def spsOf (g : Field) : Nat := max 1 g.cur.sps

/-- (r − t) mod SPS for the field's present slot r (R130). -/
def slotAge (g : Field) (t : BitVec 14) : Nat := (((g.cur.slot.toNat : Int) - (t.toNat : Int)) % (spsOf g : Int)).toNat

/-- The number of the slot `n` slots before the field's present one. -/
def slotBack (g : Field) (n : Nat) : BitVec 14 :=
  BitVec.ofNat 14 (((g.cur.slot.toNat : Int) - (n : Int)) % (spsOf g : Int)).toNat

/-- Boundaries processed since FEN took effect (R28). -/
def sinceK0 (g : Field) : Nat := g.cur.seq - g.k0

/-- Alignment of field f accepts frames: the field runs and its FEN is in effect (R136). -/
def alignOn (b : Blk) (f : Nat) : Bool := clocked b f && (fieldOf b f).fenEff

/-! Poison (R132, R133). -/

/-- Slot t is poisoned, its first cause being `first`: MAPLASTP and MAPLASTC, and MAPSTAT.POIS but for cause 12 (R133). -/
def notePoisoned (f : Nat) (t : BitVec 14) (first code : Nat) (b : Blk) : Blk :=
  let b := setReg (aF f 0x048) (BitVec.ofNat 14 first) (setReg (aF f 0x047) t b)
  if code = 12 then b else orReg (aF f 0x041) 0x40 b

/-- The first cause that has affected the coming slot of number t, `code` where none has. -/
def firstCause (b : Blk) (f : Nat) (t : BitVec 14) (code : Nat) : Nat := kget code (fieldOf b f).cause t.toNat

/-- A cause affects the coming slot of number t. -/
def addCause (f : Nat) (t : BitVec 14) (code : Nat) (b : Blk) : Blk :=
  onField f (fun g => { g with cause := kput g.cause t.toNat (firstCause b f t code) }) b

/-- A cause poisons slot t at once, before its dispatch (R133). -/
def noteCause (f : Nat) (t : BitVec 14) (code : Nat) (b : Blk) : Blk :=
  notePoisoned f t (firstCause b f t code) code (addCause f t code b)

/-- Raise an intake source at most once per slot (R133). -/
def noteSource (f src : Nat) (b : Blk) : Blk :=
  if (fieldOf b f).noted.contains src then b
  else raise f src (onField f (fun g => { g with noted := src :: g.noted }) b)

/-- Mark slot number t for a cause (R132): the slot is poisoned when it is dispatched. -/
def markFor (f : Nat) (t : BitVec 14) (code : Nat) (b : Blk) : Blk :=
  addCause f t code (onField f (fun g => { g with marks := kput g.marks t.toNat (max 1 (kget 0 g.marks t.toNat)) }) b)

/-- Mark slot number t for a suspect interval; MAPSUSP counts each slot once (R134). -/
def suspectSlot (f : Nat) (t : BitVec 14) (b : Blk) : Blk :=
  if 2 ≤ kget 0 (fieldOf b f).marks t.toNat then b
  else
    let b := onField f (fun g => { g with marks := kput g.marks t.toNat 2 }) b
    noteSource f 438 (count (aF f 0x04F) (addCause f t 7 b))

/-! Suspect intervals (R134). -/

def suspOf (g : Field) (j : Nat) : Susp := kget { g := none, opened := none } g.susp j
def setSusp (f j : Nat) (x : Susp) (b : Blk) : Blk :=
  onField f (fun g => { g with susp := kset { g := none, opened := none } g.susp j x }) b

/-- The next slot to be released, as an age: negative ages do not occur before slot k (R134). -/
def nextRelease (b : Blk) (g : Field) : Nat := min (alignA b - 1) (sinceK0 g)

/-- g of link j: the TAG of its last good frame, or the next slot to be released (R134). -/
def gOf (b : Blk) (g : Field) (j : Nat) : BitVec 14 := (suspOf g j).g.getD (slotBack g (nextRelease b g))

/-- Mark slots t0 to h, skipping those already dispatched (R134). -/
def suspectRange (f : Nat) (t0 h : BitVec 14) (b : Blk) : Blk :=
  let g := fieldOf b f
  let n := ((((h.toNat : Int) - (t0.toNat : Int)) % (spsOf g : Int)).toNat) + 1
  let age0 : Int := slotAge g t0
  let lim : Int := alignA b + 1
  each (fun (i : Nat) b => if age0 - (i : Int) ≤ lim then suspectSlot f (BitVec.ofNat 14 ((t0.toNat + i) % spsOf g)) b else b)
    (List.range n) b

/-- A bad-frame marker of link j opens a suspect interval from g (R107, R134); one already open stays open. -/
def alignBad (f j : Nat) (b : Blk) : Blk :=
  if alignOn b f then
    let g := fieldOf b f
    let x := suspOf g j
    match x.opened with
    | some _ => b
    | none =>
      let t := gOf b g j
      setSusp f j { x with opened := some ((g.cur.seq : Int) - (slotAge g t : Int), t) } b
  else b

/-- A gap marker of link j with TAG h marks g to h and opens no interval (R113, R134). -/
def alignGap (f j : Nat) (h : BitVec 14) (b : Blk) : Blk :=
  if alignOn b f then suspectRange f (gOf b (fieldOf b f) j) h b else b

/-- A frame of link j passed both checks with TAG h: an open interval closes at h, and g is h (R134). -/
def alignGood (f j : Nat) (h : BitVec 14) (b : Blk) : Blk :=
  let x := suspOf (fieldOf b f) j
  let b := match x.opened with
    | some (_, t) => suspectRange f t h b
    | none => b
  setSusp f j { g := some h, opened := none } b

/-- An open interval of the field covers the slot whose boundary had `seq` (R134). -/
def suspCovers (g : Field) (seq : Nat) : Bool :=
  g.susp.any (fun e => match e.2.opened with
    | some (s, _) => decide (s ≤ (seq : Int))
    | none => false)

/-! The alignment buffer (R130, R131, R137). -/

/-- Buffer words in use: those of the frames held, and those of the slot in release that are not yet released (R137). -/
def bufWords (g : Field) : Nat := sumN (g.abuf.map (fun x => 2 + x.pay.length)) + g.relq.length

/-- Hold an on-time frame, or drop it where the buffer is full (R137). -/
def holdFrame (f : Nat) (x : AFrame) (b : Blk) : Blk :=
  let n := bufWords (fieldOf b f) + 2 + x.pay.length
  if 8192 < n then
    noteSource f 434 (count (aF f 0x04B) (markFor f x.tag 3 (peak (aF f 0x045) 8192 b)))
  else peak (aF f 0x045) n (onField f (fun g => { g with abuf := g.abuf ++ [x] }) b)

/-- Classify a frame by its TAG and treat it (R130, R136, R137). -/
def alignFrame (f : Nat) (x : AFrame) (b : Blk) : Blk :=
  let g := fieldOf b f
  let d := slotAge g x.tag
  let a := alignA b
  if sinceK0 g ≤ a + 1 ∧ sinceK0 g < d then b
  else if d < a then holdFrame f x b
  else if d < a + 2 then noteSource f 432 (count (aF f 0x049) (markFor f x.tag 1 b))
  else noteSource f 433 (count (aF f 0x04A) (markFor f x.tag 2 b))

/-- A frame of link j passed the CRC and sequence checks, whatever its type (R113, R134, R136). A frame from before slot k does not
set g. -/
def alignPass (f j : Nat) (tag : BitVec 14) (b : Blk) : Blk :=
  let g := fieldOf b f
  if alignOn b f ∧ ¬ (sinceK0 g ≤ alignA b + 1 ∧ sinceK0 g < slotAge g tag) then alignGood f j tag b else b

/-- A good frame reaches alignment (R130, R136). -/
def alignArrive (f : Nat) (x : AFrame) (b : Blk) : Blk := if alignOn b f then alignFrame f x b else b

end Sys2Proof.Machine
end

