-- ==== Sys2Proof/Machine/Trace.lean ====
section
/-! DEFINITION. Trace packets (R549 to R552): the queue of each field, which moves to the steward's queue, and the block's
queue of 64 packets. -/

namespace Sys2Proof.Machine

/-- A free cell. -/
def freeCellOf (b : Blk) : BitVec 14 × Blk :=
  let x := takeFree b
  (Config.freeCell x.1, x.2)

/-- Cell 0 of a packet (R549). -/
def traceHead (kind f k idx : Nat) : BCell := cleanN (kind * 2048 + f * 256 + k * 32 + idx)

/-- A packet of field f: cells 2 and 3 are the slot that the field last processed and its sweep (R549). -/
def fieldPacket (b : Blk) (kind f k idx : Nat) (c : BCell) : TPacket :=
  { c0 := traceHead kind f k idx, c1 := c, c2 := clean (fieldOf b f).cur.slot, c3 := clean (lo14 (fieldOf b f).cur.sweep) }

/-- A packet enters the queue of field f, or is dropped where 8 wait (R550). -/
def traceField (f : Nat) (p : TPacket) (b : Blk) : Blk :=
  if 8 ≤ (fieldOf b f).stimq.length then raise f 489 (orReg (aF f 0x2A3) 0x10 (count (aF f 0x2A4) b))
  else onField f (fun g => { g with stimq := g.stimq ++ [p] }) b

/-- Port n of field f is enabled in STIMEN (R550). -/
def stimEnabled (b : Blk) (f n : Nat) : Bool := bit (reg b (aF f (0x2A0 + n / 14))) (n % 14)

/-- A stimulus on port n of field f: KIND 0 from an engine's STIM, 6 from a register write (R550). -/
def stimulus (kind f k n : Nat) (c : BCell) (b : Blk) : Blk :=
  if stimEnabled b f n then traceField f (fieldPacket b kind f k n c) b else b

def trcPort (b : Blk) : Bool := bit (reg b (aB 0x305)) 0
def trcFrames (b : Blk) : Bool := bit (reg b (aB 0x305)) 1

/-- A packet arrives at the steward's trace queue (R551, R552). -/
def tracePush (p : TPacket) (b : Blk) : Blk :=
  if trcPort b = false ∧ trcFrames b = false then b
  else if 64 ≤ b.trace.q.length then
    let first := decide (b.trace.ovf = 0)
    let b := orReg (aB 0x306) 0x80 (count (aB 0x307) (onTrace (fun t => { t with ovf := min 16383 (t.ovf + 1) }) b))
    if first then stwRaise 488 b else b
  else onTrace (fun t => { t with q := t.q ++ [p] }) b

/-- Room has appeared: the overflow packet is queued ahead of any other (R551). -/
def traceRoom (b : Blk) : Blk :=
  if 0 < b.trace.ovf ∧ b.trace.q.length < 64 then
    let x := freeCellOf b
    let y := freeCellOf x.2
    onTrace (fun t => { t with
      q := t.q ++ [{ c0 := traceHead 4 0 0 0, c1 := cleanN t.ovf, c2 := clean x.1, c3 := clean y.1 }], ovf := 0 }) y.2
  else b

/-- The packets of the field queues reach the steward's queue (R550, R551; log entry 26). -/
def traceMove (b : Blk) : Blk :=
  each (fun f b =>
    let q := (fieldOf b f).stimq
    each tracePush q (onField f (fun g => { g with stimq := [] }) b)) (List.range (nFields b)) b

/-- The oldest packet leaves the queue, where there is one. -/
def traceTake (b : Blk) : Option TPacket × Blk :=
  match b.trace.q with
  | [] => (none, b)
  | p :: q => (some p, traceRoom (onTrace (fun t => { t with q := q }) b))

/-- A received TRACE frame reaches the queue only when PORT is 1, behind a packet of KIND 5 (R552). -/
def traceReceived (src : BitVec 16) (pay : List (BitVec 56 × Bool)) (b : Blk) : Blk :=
  if trcPort b then
    let b := tracePush { c0 := traceHead 5 0 0 pay.length, c1 := clean (src.extractLsb' 0 14),
                         c2 := clean ((src.extractLsb' 14 2).setWidth 14), c3 := clean 0 } b
    each (fun w b => tracePush { c0 := { v := bodyCell w.1 0, p := w.2 }, c1 := { v := bodyCell w.1 1, p := w.2 },
                                 c2 := { v := bodyCell w.1 2, p := w.2 }, c3 := { v := bodyCell w.1 3, p := w.2 } } b) pay b
  else b

/-- The payload words of trace packets (R105). -/
def traceWords (l : List TPacket) : List (BitVec 56 × Bool) := packCells (l.flatMap (fun p => [p.c0, p.c1, p.c2, p.c3]))

end Sys2Proof.Machine
end

