-- ==== Sys2Proof/Machine/Fabric.lean ====
section
/-! DEFINITION. The fabric (R100 to R105, R120 to R125) and the reply path of the steward (R450, R452, R453): routing, sending,
local delivery, and the frames that the block originates. -/

namespace Sys2Proof.Machine

/-! Sending (R110, R121). -/

def roleOf (b : Blk) (l : Nat) : Nat := fld (reg b (aL l 0)) 2 2

/-- A frame can be sent on link p: the link is UP in fabric or output role (R121). -/
def canSend (b : Blk) (p : Nat) : Bool :=
  decide (p < nLinks b) && decide ((linkOf b p).st = 2) && (decide (roleOf b p = 1) || decide (roleOf b p = 2))

/-- Send a frame on link p, or drop and count it (R121, R123). -/
def sendOn (p : Nat) (x : Frame) (b : Blk) : Blk :=
  if canSend b p then onLink p (fun k => { k with txq := k.txq ++ [x] }) b else count (aB 0x190) b

/-- Send a frame on every link whose CTL has bit `i` set, but for one link (R123, R125). -/
def sendEvery (i : Nat) (but : Option Nat) (x : Frame) (b : Blk) : Blk :=
  each (fun l b => if bit (reg b (aL l 0)) i ∧ but ≠ some l then sendOn l x b else b) (List.range (nLinks b)) b

/-- The port that the lookup gives a destination (R121, R122); none for an entry read with P = 1. -/
def routePort (dest : BitVec 16) (b : Blk) : Option Nat × Blk :=
  let own := ownId b
  if dest = own then (some 127, b)
  else if dest.toNat / 16 = own.toNat / 16 then (some (fld (reg b (aB (0x1A0 + dest.toNat % 16))) 0 7), b)
  else
    let x := rdMem (.routeTab (b2n (bit (reg b (aB 0x181)) 0) * 0x1000 + dest.toNat / 16)) 9 b
    (if x.1.p then none else some (fld x.1.v 0 7), x.2)

/-! The reply FIFO (R453, R474). -/

/-- A steward reply or frame is lost (R474). -/
def replyDrop (b : Blk) : Blk := stwRaise 484 (count (aB 0x14C) b)

/-- The two envelope cells (R453). -/
def envelope (id : BitVec 16) (isLocal : Bool) : List BCell :=
  [clean (id.extractLsb' 0 14), clean (BitVec.ofNat 14 (b2n isLocal * 8192 + id.toNat / 16384))]

def fifoRoom (b : Blk) (cells : List BCell) : Bool := decide (b.stw.cmdout.length + cells.length ≤ 256)

/-- Cells enter the reply FIFO; source 480 when it was empty (R474). -/
def fifoPush (cells : List BCell) (b : Blk) : Blk :=
  let was := b.stw.cmdout.isEmpty
  let b := onStw (fun s => { s with cmdout := s.cmdout ++ cells }) b
  if was ∧ cells ≠ [] then stwRaise 480 b else b

/-- A local reply enters the FIFO, or waits for room behind those that wait already (R453). -/
def replyLocal (packet : List BCell) (b : Blk) : Blk :=
  let cells := envelope (ownId b) true ++ packet
  if b.stw.waiting.isEmpty ∧ fifoRoom b cells = true then fifoPush cells b
  else onStw (fun s => { s with waiting := s.waiting ++ [cells] }) b

/-- The waiting local replies for which there is room enter the FIFO in order. -/
def replyFlush : Nat → Blk → Blk
  | 0, b => b
  | n + 1, b =>
    match b.stw.waiting with
    | [] => b
    | c :: r => if fifoRoom b c then replyFlush n (onStw (fun s => { s with waiting := r }) (fifoPush c b)) else b

/-- A received reply enters the FIFO, or is dropped (R453). -/
def replyReceived (src : BitVec 16) (packet : List BCell) (b : Blk) : Blk :=
  let cells := envelope src false ++ packet
  if fifoRoom b cells then fifoPush cells b else replyDrop b

/-- The first n cells of a frame; what a frame too short for them lacks is free (log entry 27). -/
def takeCells : Nat → List BCell → Blk → List BCell × Blk
  | 0, _, b => ([], b)
  | n + 1, [], b =>
    let x := freeCellOf b
    let y := takeCells n [] x.2
    (clean x.1 :: y.1, y.2)
  | n + 1, c :: cs, b =>
    let y := takeCells n cs b
    (c :: y.1, y.2)

/-! Local delivery of the frames that reach the steward, the event controllers, the timebase check and the TRACE port. -/

/-- A received REPLY frame (R453): its packet of 2 + D cells. -/
def deliverReply (x : Frame) (b : Blk) : Blk :=
  let cs := payCells x.pay
  let d := fld (nth absentCell cs 0).v 0 7
  let y := takeCells (2 + d) cs b
  replyReceived x.src y.1 y.2

/-- A received STATUS frame, as a packet of status 11 (R453). -/
def deliverStatus (x : Frame) (b : Blk) : Blk :=
  let y := takeCells 40 (payCells x.pay) b
  replyReceived x.src ([cleanN (11 * 128 + 40), clean 0] ++ y.1) y.2

/-- The doorbells of a DOORBELL frame (R102). -/
def deliverDoorbells (x : Frame) (b : Blk) : Blk :=
  each (fun c b =>
    let f := fld c.v 11 3
    if fld c.v 0 9 = 0 ∨ nFields b ≤ f then b else doorbell f { v := BitVec.ofNat 14 (fld c.v 0 9), p := c.p } b)
    (payCells x.pay) b

/-- A TIME frame is compared with the sweep at which its TAG was last launched (R103). -/
def deliverTime (l : Option Nat) (x : Frame) (b : Blk) : Blk :=
  match x.pay, b.tb.hist.find? (fun e => e.1 == x.tag.toNat) with
  | w :: _, some e =>
    if bit (reg b (aB 0x180)) 1 ∧ counting b = true ∧ e.2 ≠ pair (bodyCell w.1 0) (bodyCell w.1 1) then
      let b := orReg (aB 0x181) 8 b
      match l with
      | some k => linkRaise k 3 b
      | none => b
    else b
  | _, _ => b

/-- Local delivery of every type but CMD, PRIM and DECISION (R96). -/
def deliverSimple (l : Option Nat) (x : Frame) (b : Blk) : Blk :=
  if x.typ = 6 then deliverDoorbells x b
  else if x.typ = 8 then deliverReply x b
  else if x.typ = 9 then deliverStatus x b
  else if x.typ = 10 then deliverTime l x b
  else if x.typ = 11 then traceReceived x.src x.pay b
  else b

/-! Replies to CMD frames (R452). -/

/-- Send on the arrival link, or drop the reply. -/
def replyArrival (l : Option Nat) (x : Frame) (b : Blk) : Blk :=
  match l with
  | some k => if canSend b k then sendOn k x b else replyDrop b
  | none => replyDrop b

/-- Send the reply to a command: to the reply FIFO for one from CMDIN, as a REPLY frame for one from a CMD frame (R452); a frame that
the block addressed to itself came over no link, so that its REPLY is looked up (log entry 41). -/
def sendReply (c : Cmd) (packet : List BCell) (b : Blk) : Blk :=
  if c.frame = false then replyLocal packet b
  else
    let l := c.link.map (fun k => k.1)
    let x : Frame := { typ := 8, dest := c.src, src := ownId b, tag := b.tb.slot, hop := 0, bc := false, pay := packCells packet }
    if c.link.any (fun k => k.2 == 0) then replyArrival l x b
    else
      let r := routePort c.src b
      match r.1 with
      | some p =>
        if p = 127 then deliverSimple none x r.2
        else if p ≤ 95 ∧ canSend r.2 p = true then sendOn p x r.2
        else replyArrival l x r.2
      | none => replyArrival l x r.2

/-- The opcode and tag of a command packet (R445, R447). -/
def cmdOp (c : Cmd) : Nat := fld (nth absentCell c.cells 0).v 7 7
def cmdLen (c : Cmd) : Nat := fld (nth absentCell c.cells 0).v 0 7
def cmdTag (c : Cmd) : BitVec 14 := (nth absentCell c.cells 1).v

/-- A reply packet (R445). -/
def replyPacket (c : Cmd) (status : Nat) (data : List BCell) : List BCell :=
  cleanN (status * 128 + data.length) :: clean (cmdTag c) :: data

/-- A packet whose payload lacks cell 0 or cell 1 (R448) is answered with free cells in their place (log entry 27). -/
def headed (c : Cmd) (b : Blk) : Cmd × Blk :=
  if 2 ≤ c.cells.length then (c, b)
  else
    let y := takeCells 2 c.cells b
    ({ c with cells := y.1 }, y.2)

/-- Reply with a status and data (R446, R474): success is silent where tag bit 13 asks for it; an error is counted,
recorded and raises source 483. -/
def reply (c : Cmd) (status : Nat) (data : List BCell) (b : Blk) : Blk :=
  let h := headed c b
  if status ≤ 2 then
    if bit (cmdTag h.1) 13 then h.2 else sendReply h.1 (replyPacket h.1 status data) h.2
  else
    let b := setReg (aB 0x148) (BitVec.ofNat 14 (cmdOp h.1 * 128 + status)) (count (aB 0x14A) h.2)
    sendReply h.1 (replyPacket h.1 status data) (stwRaise 483 b)

/-- A CMD frame for this block is queued, or answered BUSY (R450). -/
def deliverCmd (l : Option Nat) (x : Frame) (b : Blk) : Blk :=
  let c : Cmd := { cells := payCells x.pay, link := l.map (fun k => (k, x.hop)), src := x.src, frame := true }
  if 8 ≤ b.stw.fq.length then reply c 3 [] (count (aB 0x14B) b)
  else onStw (fun s => { s with fq := s.fq ++ [c] }) b

/-! Local delivery of every type, and routing. -/

/-- A PRIM or DECISION frame for the field of its link (R138). -/
def deliverPeer (l : Nat) (x : Frame) (b : Blk) : Blk :=
  let f := l / 12
  if bit (reg b (aF f 0)) 13 then
    alignArrive f { link := l % 12, tag := x.tag, typ := x.typ, hdr := hdrBody x.dest x.src x.tag x.typ x.hop,
                                   pay := x.pay.map (fun w => mkWord 2 w.2 w.1) } b
  else b

def deliverLocal (l : Option Nat) (x : Frame) (b : Blk) : Blk :=
  if x.typ = 7 then deliverCmd l x b
  else if x.typ = 4 ∨ x.typ = 5 then
    match l with
    | some k => deliverPeer k x b
    | none => b
  else deliverSimple l x b

/-- A frame received by the fabric on link l (R121, R125). `early` is the route found when its header arrived before its trailer
(R124). -/
def routeReceived (l : Nat) (early : Option (Option Nat)) (x : Frame) (b : Blk) : Blk :=
  if x.bc then
    if bit (reg b (aL l 0)) 6 then
      let b := deliverLocal (some l) x b
      if x.hop + 1 = 31 then count (aB 0x18F) b else sendEvery 7 (some l) { x with hop := (x.hop + 1) % 32 } b
    else count (aB 0x192) b
  else
    let r := match early with
      | some p => (p, b)
      | none => routePort x.dest b
    match r.1 with
    | some p =>
      if p ≤ 95 then
        if bit (reg b (aB 0x180)) 0 = false then count (aB 0x190) r.2
        else if x.hop + 1 = 31 then count (aB 0x18F) r.2
        else sendOn p { x with hop := (x.hop + 1) % 32 } r.2
      else if p = 127 then deliverLocal (some l) x r.2
      else count (aB 0x190) r.2
    | none => count (aB 0x190) r.2

/-- A frame that the block originates, but for DECISION and PRIM (R121, R125). -/
def originate (x : Frame) (b : Blk) : Blk :=
  if x.bc then sendEvery 7 none x b
  else
    let r := routePort x.dest b
    match r.1 with
    | some p => if p ≤ 95 then sendOn p x r.2 else if p = 127 then deliverLocal none x r.2 else count (aB 0x190) r.2
    | none => count (aB 0x190) r.2

/-! The frames that the block originates (R49, R100 to R105, R123). -/

/-- A DECISION frame (R101, R123). -/
def decisionFrameOf (b : Blk) (f : Nat) (slot cell : BitVec 14) (reason : Nat) : Frame :=
  { typ := 5, dest := idAt b (aB 0x184), src := ownId b, tag := slot, hop := 0, bc := false,
    pay := [(body4 cell (BitVec.ofNat 14 f) (BitVec.ofNat 14 (b2n (decide (reason ≠ 0)) + 2 * reason)) 0, false)] }

/-- The poison mask of a primitive list: cell j of the descriptor (1 to 3) (R100). -/
def primMask (cells : List BCell) (j : Nat) : BitVec 14 :=
  BitVec.ofNat 14 (sumN ((List.range 14).map (fun i => 2 ^ i * b2n (nth (clean 0) cells (14 * (j - 1) + i)).p)))

/-- A PRIM frame (R100, R123). -/
def primFrameOf (b : Blk) (f : Nat) (slot : BitVec 14) (cells : List BCell) : Frame :=
  { typ := 4, dest := idAt b (aB 0x186), src := ownId b, tag := slot, hop := 0, bc := false,
    pay := (body4 (BitVec.ofNat 14 (f * 2048 + cells.length)) (primMask cells 1) (primMask cells 2) (primMask cells 3), false)
      :: packCells (cells.map (fun c => clean c.v)) }

/-- FSTAT as it reads: BUSY is live (R52). -/
def fstatRead (b : Blk) (f : Nat) : BitVec 14 := putb (reg b (aF f 0x001)) 5 (busyOf b f)

/-- FPWRSTAT (R495). -/
def fpwrStat (b : Blk) : BitVec 14 := BitVec.ofNat 14 (sumN ((List.range 8).map (fun f => 2 ^ f * b2n (powered b f))))

/-- A cell of a STATUS frame that belongs to a field: 0 where the field is absent, off or stopped (R104). -/
def statField (b : Blk) (f : Nat) (v : BitVec 14) : BCell := if clocked b f then clean v else clean 0

/-- The 40 cells of a STATUS frame (R104). -/
def statusCells (b : Blk) : List BCell :=
  [clean (reg b (aB 0x000)), clean (reg b (aB 0x041)), clean (lo14 b.tb.sweep), clean (hi14 b.tb.sweep)]
  ++ (List.range 8).map (fun f => statField b f (fstatRead b f))
  ++ (List.range 8).map (fun f => statField b f (reg b (aF f 0x1CD)))
  ++ (List.range 8).map (fun f => statField b f (reg b (aF f 0x00A)))
  ++ (List.range 7).map (fun i => cleanN (sumN ((List.range 14).map (fun j =>
      2 ^ j * b2n (decide (14 * i + j < nLinks b) && decide ((linkOf b (14 * i + j)).st = 2))))))
  ++ [clean (fpwrStat b), clean 0, clean 0, clean 0, clean 0]

/-- Send a STATUS frame to STATDEST (R104, R474). -/
def sendStatus (b : Blk) : Blk :=
  originate { typ := 9, dest := idAt b (aB 0x188), src := ownId b, tag := b.tb.slot, hop := 0, bc := false,
              pay := packCells (statusCells b) } b

/-- The TIME frame of a sweep boundary whose sweep bits 7:0 became 0 (R103). -/
def sendTime (b : Blk) : Blk :=
  originate { typ := 10, dest := 0, src := ownId b, tag := 0, hop := 0, bc := true,
              pay := [(body4 (lo14 b.tb.sweep) (hi14 b.tb.sweep) (lo14 b.tb.runtime) (hi14 b.tb.runtime), false)] } b

end Sys2Proof.Machine
end

