-- ==== Sys2Proof/Machine/Links.lean ====
section
/-! DEFINITION. The link ports (R88 to R99, R106, R107, R110 to R119): training, reception, sequence numbers, credits and
transmission. -/

namespace Sys2Proof.Machine

/-! Link registers (R127). -/

def linkLoop (b : Blk) (l : Nat) : Bool := bit (reg b (aL l 0)) 9
def credOf (b : Blk) (l : Nat) : Nat := fld (reg b (aL l 4)) 0 9
def setCred (l n : Nat) (b : Blk) : Blk := setReg (aL l 4) (putf (reg b (aL l 4)) 0 9 n) b

/-- L.STAT as it reads: PHASE, ALATE and STATE are live (R115, R117). -/
def linkStat (b : Blk) (l : Nat) : BitVec 14 :=
  let v := putf (reg b (aL l 1)) 6 3 (linkOf b l).phase
  let v := putb v 2 (decide (alignA b ≤ fld (reg b (aL l 2)) 7 7))
  putf v 0 2 (linkOf b l).st

/-- Set a flag of L.STAT, with the kind-3 source (R119). -/
def linkFlag (l : Nat) (m : BitVec 14) (b : Blk) : Blk := linkRaise l 3 (orReg (aL l 1) m b)

/-! States (R115). -/

/-- The link goes UP: credits 128, SEQ from 0, and the expectation of R113. -/
def linkUp (l : Nat) (b : Blk) : Blk :=
  let e : Option (BitVec 14) := if roleOf b l = 1 then some 0 else none
  let more := decide (roleOf b l = 1) && decide (0 < fld (reg b (aB 0x18C)) 8 6)
  let b := onLink l (fun x => { x with owed := 0, txseq := 0, exp := e, rbuf := [], tail := more }) (setCred l 128 b)
  linkState l 2 b

/-! Bad frames (R107, R112, R116). -/

/-- Link l passes markers to alignment: it is an intake link, or an expected peer link (R107, R113, R138). -/
def passesMarkers (b : Blk) (l : Nat) : Bool :=
  decide (roleOf b l = 0) || (decide (roleOf b l = 1) && bit (reg b (aF (l / 12) 0x043)) (l % 12))

/-- The words of a frame are freed, and their credits are owed (R112). -/
def oweCredits (l n : Nat) (b : Blk) : Blk := if roleOf b l = 1 then onLink l (fun x => { x with owed := x.owed + n }) b else b

/-- A bad frame (R107): it returns its credits and advances the expected SEQ, and alignment takes a marker. -/
def badFrame (l n : Nat) (b : Blk) : Blk :=
  let b := oweCredits l n (onLink l (fun x => { x with exp := x.exp.map (fun e => e + 1) }) b)
  if passesMarkers b l then alignBad (l / 12) (l % 12) b else b

/-- The most payload words that a frame of the link's role carries (R111). -/
def payLimit (b : Blk) (l : Nat) : Nat := if roleOf b l = 0 then 512 else 34

/-- The buffered words of a frame with header `h` and payload `pay`, before its trailer: words past the limit are discarded as they
come (R92, R112; log entry 104). -/
def bufferedWords (b : Blk) (l : Nat) (h : BitVec 56) (pay : List (BitVec 64)) : Nat :=
  if hType h = 0 then 0 else 1 + min (payLimit b l) pay.length

/-- The frame that is open on the link ends as a bad frame: cut by a header, which is a framing error (R92), or by the link's leaving
UP (R116). -/
def cutOpen (l : Nat) (byHeader : Bool) (b : Blk) : Blk :=
  match (linkOf b l).part with
  | none => b
  | some p =>
    let b := onLink l (fun x => { x with part := none }) b
    badFrame l (bufferedWords b l (wBody p.frame.hdr) p.frame.pay) (if byHeader then linkFlag l 0x10 b else b)

/-- The link goes DOWN. -/
def linkDown (l : Nat) (b : Blk) : Blk :=
  linkState l 0 (onLink l (fun x => { x with phase := 0, run := 0, tail := false }) (cutOpen l false b))

/-- The link leaves UP for TRAIN (R115, R118). -/
def linkRetrain (l : Nat) (b : Blk) : Blk := linkTrain l (cutOpen l false b)

/-- No word has been received for four whole slots (R115). -/
def linkSilent (b : Blk) (l : Nat) : Bool :=
  decide (5 ≤ (linkOf b l).quiet) && (decide ((linkOf b l).st = 1) || decide ((linkOf b l).st = 2))

/-- Take a silent link DOWN. -/
def linkSettle (l : Nat) (b : Blk) : Blk := if linkSilent b l then linkDown l b else b

/-- The receive side of link l takes words from its pins (R110, R127). -/
def rxLive (b : Blk) (l : Nat) : Bool :=
  decide (l < nLinks b) && linkOn b l && decide (roleOf b l ≠ 2)

/-- A word is received: silence starts anew, and a link that silence took DOWN returns to TRAIN (R115). -/
def rxWord (l : Nat) (b : Blk) : Blk :=
  let b := linkSettle l b
  let x := linkOf b l
  if x.st = 0 then (if 5 ≤ x.quiet then linkTrain l b else b) else onLink l (fun x => { x with quiet := 0 }) b

/-- The slot in which a word reaches the alignment input of the link's field, and SPS there (R117). -/
def slotAtLink (b : Blk) (l : Nat) : BitVec 14 × Nat :=
  if clocked b (l / 12) then ((fieldOf b (l / 12)).cur.slot, spsOf (fieldOf b (l / 12))) else (b.tb.slot, max 1 b.tb.spsEff)

/-- (r − TAG) mod SPS (R117). -/
def linkLatency (b : Blk) (l : Nat) (tag : BitVec 14) : Nat :=
  let x := slotAtLink b l
  (((x.1.toNat : Int) - (tag.toNat : Int)) % (x.2 : Int)).toNat

/-- A training word measures the latency of this stay in TRAIN (R117). -/
def measure (l : Nat) (tag : BitVec 14) (b : Blk) : Blk :=
  let d := min 127 (linkLatency b l tag)
  let v := reg b (aL l 2)
  let first := (linkOf b l).fresh
  let mx := if first then d else max d (fld v 7 7)
  let mn := if first then d else min d (fld v 0 7)
  onLink l (fun x => { x with fresh := false }) (setReg (aL l 2) (BitVec.ofNat 14 (mx * 128 + mn)) b)

/-! Training words (R114, R115). -/

/-- TRAINN, with 0 counting as 1 (R126). -/
def trainN (b : Blk) : Nat := max 1 (fld (reg b (aB 0x18C)) 0 8)

/-- A good training word in TRAIN, after the measurement (R115). `ph` is its PHASE. -/
def trainStep (l ph : Nat) (b : Blk) : Blk :=
  let b := onLink l (fun x => { x with run := min 255 (x.run + 1) }) b
  let x := linkOf b l
  if roleOf b l = 0 then (if trainN b ≤ x.run then linkUp l b else b)
  else if x.phase = 0 then (if trainN b ≤ x.run then onLink l (fun x => { x with phase := 1 }) b else b)
  else if x.phase = 1 then (if ph = 1 ∨ ph = 2 then onLink l (fun x => { x with phase := 2 }) b else b)
  else if ph = 2 then linkUp l b else b

/-- A training word with PATTERN 0xA5A on a link in TRAIN. -/
def trainWord (l : Nat) (w : BitVec 56) (b : Blk) : Blk :=
  let id : BitVec 16 := w.extractLsb' 40 16
  let b := measure l (w.extractLsb' 26 14) b
  if roleOf b l = 1 ∧ ((id = ownId b ∧ linkLoop b l = false) ∨ fld w 14 9 = 0) then linkState l 3 b
  else trainStep l (fld w 23 3) b

/-- L.PEER and CRED.IDHI take the sender's ID (R127). -/
def setPeer (l : Nat) (id : BitVec 16) (b : Blk) : Blk :=
  setReg (aL l 4) (putf (reg b (aL l 4)) 12 2 (id.toNat / 16384)) (setReg (aL l 3) (id.extractLsb' 0 14) b)

/-- A training word (R114, R115, R117). -/
def rxTraining (l : Nat) (w : BitVec 56) (b : Blk) : Blk :=
  let b := rxWord l b
  let good := decide (fld w 0 12 = 0xA5A)
  let ph := fld w 23 3
  let b := setPeer l (w.extractLsb' 40 16) b
  let st := (linkOf b l).st
  if st = 1 then (if good then trainWord l w b else onLink l (fun x => { x with run := 0 }) b)
  else if st = 2 then
    if good = false ∨ (roleOf b l = 1 ∧ 2 < ph) then linkFlag l 0x10 b
    else if roleOf b l = 1 ∧ ph = 2 then b
    else trainWord l w (linkRetrain l b)
  else b

/-- The training word that link l sends (R114). -/
def ownTraining (b : Blk) (l : Nat) : BitVec 56 :=
  ownId b ++ b.tb.slot ++ BitVec.ofNat 3 (linkOf b l).phase ++ (128 : BitVec 9) ++ (0 : BitVec 2) ++ (0xA5A : BitVec 12)

/-- A word equals the link's own training word but for its TAG. -/
def isOwnTraining (b : Blk) (l : Nat) (w : BitVec 56) : Bool :=
  decide (w.extractLsb' 0 26 = (ownTraining b l).extractLsb' 0 26) && decide (w.extractLsb' 40 16 = ownId b)

/-! Frames (R91, R92, R99, R106, R107, R111 to R113). -/

/-- A RUN or RUNC payload has a lawful count, word number and CONT fields (R99). -/
def runLawful (typ : Nat) (pay : List (BitVec 56)) : Bool :=
  match pay with
  | [] => false
  | d :: ws =>
    let start := fld (bodyCell d 0) 0 10
    let n := fld (bodyCell d 1) 0 11
    let per := if typ = 2 then 4 else 5
    decide (1 ≤ n ∧ n ≤ 1024 ∧ start + n ≤ 1024 ∧ ws.length = (n + per - 1) / per) &&
    (decide (typ = 2) || (ws.zipIdx).all (fun e => decide (fld e.1 50 6 = (ws.length - 1 - e.2) % 64)))

/-- A trailer returns credits; the count is clipped at 128 (R112). -/
def creditReturn (l k : Nat) (b : Blk) : Blk :=
  if roleOf b l = 1 then
    let n := credOf b l + k
    if 128 < n then linkFlag l 0x20 (setCred l 128 b) else setCred l n b
  else b

/-- The sequence check (R113): whether the frame passed, and the block. -/
def checkSeq (l : Nat) (seq tag : BitVec 14) (b : Blk) : Bool × Blk :=
  let ok := decide ((linkOf b l).exp = none) || decide ((linkOf b l).exp = some seq)
  let b := onLink l (fun x => { x with exp := some (seq + 1) }) b
  if ok then (true, b)
  else
    let b := linkRaise l 2 (count (aL l 6) b)
    (false, if passesMarkers b l then alignGap (l / 12) (l % 12) tag b else b)

/-! The receive buffer (R112). -/

/-- A copy of received frame `id` of link l waits for credits on some link. -/
def heldFrame (b : Blk) (l id : Nat) : Bool :=
  (List.range (nLinks b)).any (fun p => (linkOf b p).txq.any (fun x => decide (x.hold = some (l, id))))

/-- Received frame `id` leaves the receive buffer once no copy of it waits to be sent, and its credits are owed (log entry 104). -/
def freeFrame (l id : Nat) (b : Blk) : Blk :=
  if heldFrame b l id then b
  else
    match (linkOf b l).rbuf.find? (fun e => e.1 == id) with
    | some e => oweCredits l e.2 (onLink l (fun x => { x with rbuf := x.rbuf.filter (fun e => e.1 != id) }) b)
    | none => b

/-- A frame of n words enters the receive buffer of fabric link l. -/
def bufferFrame (l n : Nat) (b : Blk) : Blk := onLink l (fun x => { x with rbuf := x.rbuf ++ [(x.rxn, n)], rxn := x.rxn + 1 }) b

/-- A frame that passed its CRC (R96, R113). `early` is the route that its header found before its trailer came. -/
def goodFrame (l : Nat) (early : Option (Option Nat)) (h t : BitVec 56) (pay : List (BitVec 64)) (b : Blk) : Blk :=
  let typ := hType h
  let r := checkSeq l (tSeq t) (hTag h) b
  let b := if r.1 ∧ roleOf b l ≤ 1 then alignPass (l / 12) (l % 12) (hTag h) r.2 else r.2
  if typ = 0 then b
  else if roleOf b l = 0 then
    if typ ≤ 3 then alignArrive (l / 12) { link := l % 12, tag := hTag h, typ := typ, hdr := h, pay := pay } b
    else count (aB 0x191) b
  else
    let id := (linkOf b l).rxn
    let b := bufferFrame l (2 + pay.length) b
    let b := if roleOf b l = 1 ∧ 4 ≤ typ ∧ typ ≤ 11 then
        routeReceived l early { typ := typ, dest := hDest h, src := hSrc h, tag := hTag h, hop := hHop h, bc := tBc t,
                                pay := pay.map (fun w => (wBody w, wP w)), hold := some (l, id) } b
      else count (aB 0x191) b
    freeFrame l id b

/-- A header arrives: its latency is judged (R117). -/
def rxHeader (l : Nat) (h : BitVec 56) (b : Blk) : Blk :=
  if fld (reg b (aL l 2)) 7 7 < linkLatency b l (hTag h) then linkFlag l 8 b else b

/-- Payload words of a frame of a type arrive: C is compared with the type (R91). -/
def rxPayload (l typ : Nat) (ws : List (BitVec 64)) (b : Blk) : Blk :=
  if ws.any (fun x => wC x != decide (typ = 3)) then linkFlag l 0x10 b else b

/-- The trailer of a frame arrives (R92, R99, R106, R107, R111, R112). -/
def rxTrailer (l : Nat) (early : Option (Option Nat)) (h : BitVec 56) (pay : List (BitVec 64)) (t : BitVec 56) (b : Blk) : Blk :=
  let typ := hType h
  let n := if typ = 0 then 0 else bufferedWords b l h pay + 1
  let b := creditReturn l (tCredit t) b
  if payLimit b l < pay.length then badFrame l n (linkFlag l 0x10 b)
  else if frameCrc h (pay.map wBody) ≠ tCrc t then badFrame l n (linkRaise l 1 (count (aL l 5) b))
  else if roleOf b l = 0 ∧ (typ = 2 ∨ typ = 3) ∧ runLawful typ (pay.map wBody) = false then
    badFrame l n (linkFlag l 0x10 b)
  else goodFrame l early h t pay b

/-- The route of a frame whose trailer has still to come, as the table stands when its header arrives (R121, R124). -/
def headerRoute (l : Nat) (h : BitVec 56) (b : Blk) : Option (Option Nat) × Blk :=
  if roleOf b l = 1 ∧ 4 ≤ hType h ∧ hType h ≤ 11 then
    let r := routePort (hDest h) b
    (some r.1, r.2)
  else (none, b)

/-- A frame arrives on an UP link (R91, R92, R117): a row without a trailer leaves it open. -/
def rxFrame (l : Nat) (w : WireFrame) (b : Blk) : Blk :=
  let h := wBody w.hdr
  let b := rxHeader l h (cutOpen l true b)
  let b := rxPayload l (hType h) (w.pay.take (payLimit b l)) b
  match w.trl with
  | some t => rxTrailer l none h w.pay (wBody t) b
  | none =>
    let r := headerRoute l h b
    onLink l (fun x => { x with part := some { frame := w, port := r.1 } }) r.2

/-- A word that is no training word reaches the link (R115): what is left to do with it when the link is, or goes, UP. -/
def rxOther (l : Nat) (up : Blk → Blk) (b : Blk) : Blk :=
  let b := rxWord l b
  let x := linkOf b l
  if x.st = 2 then up b
  else if x.st = 1 then
    let b := onLink l (fun x => { x with run := 0 }) b
    if roleOf b l = 1 ∧ x.phase = 2 then up (linkUp l b) else b
  else b

/-- The words of a frame are in their kinds. -/
def wireShape (w : WireFrame) : Bool :=
  decide (wKind w.hdr = 1) && w.pay.all (fun x => decide (wKind x = 2)) &&
  (match w.trl with
   | some t => decide (wKind t = 3)
   | none => true)

/-- A further word reaches a frame that is open: a payload word joins it, a trailer closes it, idle words are skipped, and a word
of a reserved KIND neither opens nor closes a frame (R92). -/
def openWord (l : Nat) (p : Part) (w : BitVec 64) (b : Blk) : Blk :=
  let h := wBody p.frame.hdr
  if wKind w = 0 then b
  else if wKind w = 2 then
    if payLimit b l < p.frame.pay.length then b
    else
      let q : Part := { p with frame := { p.frame with pay := p.frame.pay ++ [w] } }
      onLink l (fun x => { x with part := some q }) (if p.frame.pay.length < payLimit b l then rxPayload l (hType h) [w] b else b)
  else if wKind w = 3 then rxTrailer l p.port h p.frame.pay (wBody w) (onLink l (fun x => { x with part := none }) b)
  else linkFlag l 0x10 b

/-- A word that comes with no header: outside any frame (R92, R112, R115), or in the frame that is open. -/
def strayWord (l : Nat) (w : BitVec 64) (b : Blk) : Blk :=
  match (linkOf b l).part with
  | some p => openWord l p w b
  | none =>
    if wKind w = 0 then b
    else if wKind w = 3 then creditReturn l (tCredit (wBody w)) (linkFlag l 0x10 b)
    else linkFlag l 0x10 b

/-! Transmission (R110, R112, R113). -/

/-- Send one frame on link l; with LOOP the receive side takes its words (R127). -/
def transmit (l : Nat) (x : Frame) (b : Blk) : Blk :=
  let k := linkOf b l
  let credit := if roleOf b l = 1 then min k.owed 511 else 0
  let b := onLink l (fun k => { k with txseq := k.txseq + 1, owed := k.owed - credit, lastTx := some (x, k.txseq, credit) }) b
  if linkLoop b l ∧ rxLive b l = true then rxOther l (rxFrame l (frameWords x k.txseq credit)) b else b

/-- A frame can start on link l: it can be sent, and the READY words after UP have gone out (R115). -/
def canStart (b : Blk) (l : Nat) : Bool := canSend b l && !((linkOf b l).tail)

/-- The peer's ID as last received (R127). -/
def peerId (b : Blk) (l : Nat) : BitVec 16 := (reg b (aL l 4)).extractLsb' 12 2 ++ reg b (aL l 3)

/-- An IDLE frame returns owed credits (R112). -/
def creditIdleEff (l : Nat) (b : Blk) : Blk :=
  let b := linkSettle l b
  if canStart b l ∧ roleOf b l = 1 ∧ 0 < (linkOf b l).owed then
    transmit l { typ := 0, dest := peerId b l, src := ownId b, tag := b.tb.slot, hop := 0, bc := false, pay := [] } b
  else b

/-- FAB.CREDTHR.THRESH, with 0 counting as 1 (R126). -/
def creditThr (b : Blk) : Nat := max 1 (fld (reg b (aB 0x18D)) 0 9)

/-- Owed credits that reach THRESH trigger an IDLE frame where no frame waits to take them along (R112; log entry 105). -/
def creditAuto (l : Nat) (b : Blk) : Blk :=
  if creditThr b ≤ (linkOf b l).owed ∧ (linkOf b l).txq.isEmpty = true then creditIdleEff l b else b

/-- The frame at the head of the link's queue starts when the credits cover it (R112); where it came in on a link, its words leave
that link's receive buffer. -/
def frameTransmitEff (l : Nat) (b : Blk) : Blk :=
  let b := linkSettle l b
  if canStart b l then
    match (linkOf b l).txq with
    | [] => b
    | x :: r =>
      if roleOf b l = 1 ∧ credOf b l < frameLen x then b
      else
        let b := onLink l (fun k => { k with txq := r }) b
        let b := transmit l x (if roleOf b l = 1 then setCred l (credOf b l - frameLen x) b else b)
        match x.hold with
        | some (k, id) => creditAuto k (freeFrame k id b)
        | none => b
  else b

/-- A frame whose type lies in lo to hi arrives on the pins of link l. -/
def rxRow (lo hi l : Nat) (w : WireFrame) (b : Blk) : Blk :=
  let typ := hType (wBody w.hdr)
  if rxLive b l ∧ linkLoop b l = false ∧ wireShape w = true ∧ lo ≤ typ ∧ typ ≤ hi then creditAuto l (rxOther l (rxFrame l w) b)
  else b

/-! Writes of L.CTL (R115, R118, R127). -/

def linkCtlWrite (l : Nat) (v : BitVec 14) (b : Blk) : Blk :=
  let was := linkOn b l
  let b := plainWrite (aL l 0) v (linkSettle l b)
  if linkOn b l = false then onLink l (fun x => { x with quiet := 0 }) (linkDown l b)
  else if bit v 8 ∨ (was = false ∧ modeOf b = 3) then linkRetrain l b
  else b

/-- A slot boundary at the link: silence is judged (R115). -/
def linkBoundary (l : Nat) (b : Blk) : Blk :=
  let b := linkSettle l b
  let x := linkOf b l
  if (x.st = 1 ∨ x.st = 2) ∧ roleOf b l ≠ 2 ∧ linkLoop b l = false then onLink l (fun x => { x with quiet := x.quiet + 1 }) b
  else b

/-! The commands. -/

def execHitFrame (l : Nat) (w : WireFrame) (s : State) := run (rxRow 1 1 l w) s
def execRunFrame (l : Nat) (w : WireFrame) (s : State) := run (rxRow 2 2 l w) s
def execRuncFrame (l : Nat) (w : WireFrame) (s : State) := run (rxRow 3 3 l w) s
def execPrimFrame (l : Nat) (w : WireFrame) (s : State) := run (rxRow 4 4 l w) s
def execDecisionFrame (l : Nat) (w : WireFrame) (s : State) := run (rxRow 5 5 l w) s
def execDoorbellFrame (l : Nat) (w : WireFrame) (s : State) := run (rxRow 6 6 l w) s
def execCmdFrame (l : Nat) (w : WireFrame) (s : State) := run (rxRow 7 7 l w) s
def execReplyFrame (l : Nat) (w : WireFrame) (s : State) := run (rxRow 8 8 l w) s
def execStatusFrame (l : Nat) (w : WireFrame) (s : State) := run (rxRow 9 9 l w) s
def execTimeFrame (l : Nat) (w : WireFrame) (s : State) := run (rxRow 10 10 l w) s
def execTraceFrame (l : Nat) (w : WireFrame) (s : State) := run (rxRow 11 11 l w) s
def execIdleFrame (l : Nat) (w : WireFrame) (s : State) := run (rxRow 0 0 l w) s
/-- R96: types 12 to 31. -/
def execBadtypeFrame (l : Nat) (w : WireFrame) (s : State) := run (rxRow 12 31 l w) s

/-- R114, R115; with LOOP the link hears its own training words alone (R127). -/
def execTrainingWord (l : Nat) (w : BitVec 64) (s : State) :=
  run (fun b =>
    if rxLive b l ∧ wKind w = 4 ∧ (linkLoop b l = false ∨ isOwnTraining b l (wBody w) = true) then rxTraining l (wBody w) b
    else b) s

/-- R92: KIND 0, 2, 3 and the reserved kinds. -/
def execWordOutsideFrame (l : Nat) (w : BitVec 64) (s : State) :=
  run (fun b =>
    if rxLive b l ∧ linkLoop b l = false ∧ wKind w ≠ 1 ∧ wKind w ≠ 4 then creditAuto l (rxOther l (strayWord l w) b) else b) s

/-- R115: the link has seen five boundaries since its last word. -/
def execLinkSilenceDown (l : Nat) (s : State) := run (linkSettle l) s

/-- R115: an output link has sent its training words, or a fabric link the READY words after UP (log entry 106). -/
def execTrainingWordsSent (l : Nat) (s : State) :=
  run (fun b =>
    if l < nLinks b ∧ linkOn b l = true ∧ roleOf b l = 2 ∧ (linkOf b l).st = 1 then linkUp l b
    else if l < nLinks b ∧ roleOf b l = 1 then onLink l (fun x => { x with tail := false }) b
    else b) s

def execFrameTransmit (l : Nat) (s : State) := run (frameTransmitEff l) s
def execCreditIdleSend (l : Nat) (s : State) := run (creditIdleEff l) s

/-- R104: STATPER sweeps have passed since the last STATUS frame. -/
def statusDue (b : Blk) : Bool := decide (0 < (reg b (aB 0x18E)).toNat) && decide ((reg b (aB 0x18E)).toNat ≤ b.statCnt)

/-- Send the STATUS frame that is due. -/
def statusSendEff (b : Blk) : Blk := if statusDue b then sendStatus { b with statCnt := 0 } else b

def execStatusSend (s : State) := run statusSendEff s

end Sys2Proof.Machine
end

