-- ==== Sys2Proof/Machine/Mapper.lean ====
section
/-! DEFINITION. The mapper (R131, R139, R142 to R153): release of a slot's frames, peer entries, the conditioning of samples,
and border copies. The matcher's test of a hit stands here too (R160, R161), since both hits and copies end in it. -/

namespace Sys2Proof.Machine

/-! The slots on their way. -/

/-- Change the record of the slot with `seq`. -/
def onRec (f seq : Nat) (h : SlotRec → SlotRec) (b : Blk) : Blk :=
  onField f (fun g => { g with pipe := g.pipe.map (fun r => if r.seq = seq then h r else r) }) b

def recOf (b : Blk) (f seq : Nat) : Option SlotRec := (fieldOf b f).pipe.find? (fun r => r.seq == seq)

/-- The slot being mapped: released and not closed (R150). -/
def openRec (b : Blk) (f : Nat) : Option SlotRec := (fieldOf b f).pipe.find? (fun r => !r.closed)

/-- Poison a slot (R42): before its dispatch it is poisoned at dispatch; after it, the slot-poison flag of the C0 that still
holds it sets at once. -/
def poisonSlot (f seq : Nat) (b : Blk) : Blk :=
  match recOf b f seq with
  | some r =>
    let b := onRec f seq (fun r => { r with pois := true }) b
    match r.member with
    | some k =>
      if r.dispatched ∧ (engOf b (8 * f + k)).slot = some seq then onCtx (8 * f + k) 0 (fun x => { x with spois := true }) b
      else b
    | none => b
  | none => b

/-- Poison the slot being mapped for a cause of R133, with its counter and source. -/
def poisonMapped (f : Nat) (r : SlotRec) (code ctr n src : Nat) (b : Blk) : Blk :=
  noteSource f src (countN (aF f ctr) n (noteCause f r.slot code (poisonSlot f r.seq b)))

/-! The matcher's test (R160, R161). -/

/-- A hit at column u and row v with flags `fl` qualifies for a window (R160). -/
def qualifies (w : Win) (u v fl : Nat) : Bool :=
  decide (w.u0 ≤ u ∧ u ≤ w.u1 ∧ w.v0 ≤ v ∧ v ≤ w.v1) && decide (w.umask &&& fl = w.umask)

/-- A window takes a hit (R160, R161). -/
def winHit (u v fl : Nat) (out : Int) (w : Win) : Win :=
  if qualifies w u v fl then { w with cnt := min 16383 (w.cnt + 1), sum := min (2 ^ 28 - 1) (w.sum + (max out 0).toNat) } else w

/-- The matcher takes a hit of the slot with `seq` (R160, R169). -/
def matchHit (f seq tile fl : Nat) (out : Int) (b : Blk) : Blk :=
  onRec f seq (fun r => { r with
    wins := r.wins.map (winHit (tile % 128) (tile / 128) fl out), hits := min 16383 (r.hits + 1) }) b

/-! Border copies (R151, R152). -/

/-- A copy goes to field `dst`; a field without power or with FEN = 0 discards it (R152). -/
def sendCopy (dst : Nat) (seq tile fl : Nat) (out : Int) (b : Blk) : Blk :=
  if tile ≠ 16383 ∧ alignOn b dst = true then
    onField dst (fun g => { g with border := g.border ++ [{ seq := seq, tile := tile, out := out, u := fl }] }) b
  else b

/-- The copies of a hit under the BW, BR and BL of the slot (R151). -/
def borderCopies (f : Nat) (r : SlotRec) (tile fl : Nat) (out : Int) (b : Blk) : Blk :=
  let w := fld r.mapctl 10 4
  let n := nFields b
  let u := tile % 128
  let v := tile / 128
  let b := if bit r.mapctl 9 ∧ 0 < w ∧ 128 - w ≤ u then sendCopy ((f + 1) % n) r.seq (v * 128 + (u + w - 128)) fl out b else b
  if bit r.mapctl 8 ∧ 0 < w ∧ u < w then sendCopy ((f + n - 1) % n) r.seq (v * 128 + (u + 128 - w)) fl out b else b

/-- A copy comes after its slot closed: it is dropped, and poisons the slot, whose first cause stands where it had one (R133, R152). -/
def copyLate (f : Nat) (c : Border) (b : Blk) : Blk :=
  let g := fieldOf b f
  let t := slotBack g (g.cur.seq - c.seq)
  let b := noteSource f 442 (count (aF f 0x053) (poisonSlot f c.seq b))
  if c.seq + alignA b + 2 ≤ g.cur.seq then
    let first := kget 10 g.caused t.toNat
    notePoisoned f t first 10 (onField f (fun g => { g with caused := kput g.caused t.toNat first }) b)
  else noteCause f t 10 b

/-- The first copy whose slot the field has begun to release enters the matcher, or is dropped when it is late (R152). -/
def borderEff (f : Nat) (b : Blk) : Blk :=
  let g := fieldOf b f
  match g.border.find? (fun c => decide (c.seq + alignA b ≤ g.cur.seq)) with
  | none => b
  | some c =>
    let b := onField f (fun g => { g with border := g.border.erase c }) b
    if alignOn b f = false ∨ c.seq < g.k0 then b
    else
      match openRec b f with
      | some r =>
        if r.seq = c.seq then matchHit f c.seq c.tile c.u c.out b
        else copyLate f c b
      | none => copyLate f c b

/-! Samples (R98, R99, R148). -/

/-- The samples of a word of a HIT frame; a hit with V = 0 is removed (R98). -/
def hitSamples (j : Nat) (w : BitVec 64) : List Sample :=
  let one (h : BitVec 28) : List Sample :=
    if bit h 17 then [{ ch := j * 1024 + fld h 18 10, amp := h.extractLsb' 0 14, p := wP w, u := fld h 14 3, hit := true }] else []
  one (w.extractLsb' 28 28) ++ one (w.extractLsb' 0 28)

/-- The samples of the words of a run from channel `c`, `n` of them left: four cells or five codes a word (R99). -/
def runSamples (codes : Bool) : List (BitVec 64) → Nat → Nat → List (List Sample)
  | [], _, _ => []
  | w :: ws, c, n =>
    let vs : List (BitVec 14) :=
      if codes then (runcCodes (wBody w)).map (fun x => BitVec.ofNat 14 (expandOf x)) else (List.range 4).map (bodyCell (wBody w))
    let now := (vs.take n).zipIdx.map (fun e => { ch := c + e.2, amp := e.1, p := wP w, u := 0, hit := false : Sample })
    now :: runSamples codes ws (c + now.length) (n - now.length)

/-- The samples of a frame, word by word: the header, descriptor and trailer words carry none (R131, R150). -/
def frameSamples (x : AFrame) : List (List Sample) :=
  if x.typ = 1 then [[]] ++ x.pay.map (hitSamples x.link) ++ [[]]
  else
    match x.pay with
    | d :: ws =>
      let c := x.link * 1024 + fld (bodyCell (wBody d) 0) 0 10
      [[], []] ++ runSamples (decide (x.typ = 3)) ws c (fld (bodyCell (wBody d) 1) 0 11) ++ [[]]
    | [] => [[], []]

/-- FIFO entries of a sample: a hit takes two (R148). -/
def sampleSize (x : Sample) : Nat := if x.hit then 2 else 1
def fifoSize (l : List Sample) : Nat := sumN (l.map sampleSize)

/-- One released word enters the intake FIFO whole, or is dropped (R148, R149). -/
def releaseWord (f : Nat) (b : Blk) : Blk :=
  match (fieldOf b f).relq with
  | [] => b
  | w :: ws =>
    let b := onField f (fun g => { g with relq := ws }) b
    let n := fifoSize (fieldOf b f).fifo + fifoSize w
    if 512 < n then
      match openRec b f with
      | some r => poisonMapped f r 4 0x04C w.length 435 b
      | none => b
    else peak (aF f 0x046) n (onField f (fun g => { g with fifo := g.fifo ++ w }) b)

/-! Conditioning (R145, R146). -/

/-- The output of R146 and whether it saturated. -/
def condition (amp ped gain : Nat) : Int × Bool :=
  let q := Int.tdiv (((amp : Int) - (ped : Int)) * (gain : Int)) 4096
  (min (max q (-8192)) 8191, decide (q < -8192) || decide (8191 < q))

/-- MAPCTL.ZS applies to the sample (R145). -/
def zsApplies (r : SlotRec) (x : Sample) : Bool :=
  let z := fld r.mapctl 0 2
  decide (z = 2) || decide (z = 3) || (decide (z = 1) && !x.hit)

/-- Steps 5 to 7 of R145. -/
def mapOut (f : Nat) (r : SlotRec) (x : Sample) (tile : Nat) (ped gain : BitVec 14) (b : Blk) : Blk :=
  let o := condition x.amp.toNat ped.toNat gain.toNat
  let b := if o.2 then noteSource f 441 (orReg (aF f 0x041) 0x20 (count (aF f 0x052) b)) else b
  if zsApplies r x ∧ o.1 < r.zs.toInt then b
  else borderCopies f r tile x.u o.1 (matchHit f r.seq tile x.u o.1 b)

/-- One sample or hit through the mapper (R145). -/
def mapOne (f : Nat) (r : SlotRec) (x : Sample) (b : Blk) : Blk :=
  if r.masks.contains x.ch then count (aF f 0x054) b
  else if x.p then poisonMapped f r 9 0x051 1 440 b
  else
    let ms := b2n r.msel * 0x10000 + 3 * x.ch
    let t := rdMem (.chanMap f ms) 8 b
    if t.1.p then poisonMapped f r 8 0x050 1 439 t.2
    else if t.1.v = 0x3FFF then t.2
    else
      let pd := rdMem (.chanMap f (ms + 1)) 8 t.2
      let gn := rdMem (.chanMap f (b2n r.gsel * 0x10000 + 3 * x.ch + 2)) 8 pd.2
      if pd.1.p ∨ gn.1.p then poisonMapped f r 8 0x050 1 439 gn.2
      else mapOut f r x t.1.v.toNat pd.1.v gn.1.v gn.2

/-- The head of the FIFO is mapped. -/
def mapHead (f : Nat) (b : Blk) : Blk :=
  match (fieldOf b f).fifo, openRec b f with
  | x :: xs, some r => mapOne f r x (onField f (fun g => { g with fifo := xs }) b)
  | _, _ => b

/-- MAP_SAMPLE: up to four words are released, and one sample is mapped (R131, R145). -/
def mapSampleEff (f rel : Nat) (b : Blk) : Blk :=
  if clocked b f then mapHead f (times (releaseWord f) (min 4 rel) b) else b

/-! Peer entries (R139, R140). -/

/-- A port-B write is dropped (R400). -/
def dropB (f : Nat) (b : Blk) : Blk := raise f 452 (orReg (aF f 0x1C1) 2 (count (aF f 0x1D0) b))

/-- The cell as memory holds it: a poisoned cell is one pattern (R411). -/
def normCell (c : BCell) : BCell := if c.p then absentCell else c

/-- A port-B write meets the last port-A write to its word, with other data, in one field cycle: whether, and the block (R400). -/
def meetsA (f off : Nat) (c : BCell) (b : Blk) : Bool × Blk :=
  match (fieldOf b f).lastA with
  | some (o, d) =>
    if o = off ∧ normCell d ≠ normCell c then
      let x := takeFree (onField f (fun g => { g with lastA := none }) b)
      (Config.sameCycle x.1, x.2)
    else (false, b)
  | none => (false, b)

/-- A port-B write to a word of field memory: whether it is stored, and the block (R400, R401). -/
def portB (f off : Nat) (c : BCell) (b : Blk) : Bool × Blk :=
  let x := meetsA f off c b
  if x.1 then (false, dropB f x.2) else (true, storeMem (.fieldMem f off) c x.2)

/-- The record writer stores a cell as the intake-writer master, breaking a sequence that holds its word (R233); a write that is
refused or dropped is not made, and poisons the slot (R140, R176, R401, R405). -/
def writerStore (f seq off : Nat) (c : BCell) (b : Blk) : Blk :=
  if permits (permOf b f off 8) 1 then
    let x := portB f off c (breakHolders (f * 0x10000 + off) b)
    if x.1 then onField f (fun g => { g with lastB := (seq, off, c) :: g.lastB }) x.2 else poisonSlot f seq x.2
  else poisonSlot f seq (raise f 461 (recordDeny f off 1 8 b))

/-- Store consecutive cells. -/
def writerCells (f seq : Nat) : Nat → List BCell → Blk → Blk
  | _, [], b => b
  | off, c :: cs, b => writerCells f seq (off + 1) cs (writerStore f seq off c b)

/-- Store cells that have waited, each at its place. -/
def writerQueue (f : Nat) : List (Nat × Nat × BCell) → Blk → Blk
  | [], b => b
  | (seq, off, c) :: r, b => writerQueue f r (writerStore f seq off c b)

/-- Consecutive cells of a slot, as they wait for the writer. -/
def queued (seq off : Nat) (cs : List BCell) : List (Nat × Nat × BCell) := cs.zipIdx.map (fun e => (seq, off + e.2, e.1))

/-- The writer's work of one slot (R140, R165): the record cells from the fourth field cycle on, then, in the field cycles that write
neither a record cell nor an entry header, peer-entry cells; what does not fit in the slot's cycles waits. `closed` says that a slot
closed at this boundary. -/
def writerRun (f : Nat) (closed : Bool) (b : Blk) : Blk :=
  let g := fieldOf b f
  let rec8 := if closed then 8 * (g.fclk - 3) else 8 * g.fclk
  let now := g.wrec.take rec8
  let head := b2n (closed && bit (reg b (aF f 0)) 13)
  let items := g.wpeer.take (8 * (g.fclk - (now.length + 7) / 8 - head))
  let b := onField f (fun g => { g with wrec := g.wrec.drop now.length, wpeer := g.wpeer.drop items.length }) b
  onField f (fun g => { g with lastA := none }) (writerQueue f items (writerQueue f now b))

/-- The record, or the peer entry, of a slot is not complete (R140, R166). -/
def recWaits (b : Blk) (f seq : Nat) : Bool := (fieldOf b f).wrec.any (fun x => x.1 == seq)
def peerWaits (b : Blk) (f seq : Nat) : Bool := (fieldOf b f).wpeer.any (fun x => x.1 == seq)

/-- The offset of the peer entry with ring index i (R139). -/
def peerOff (b : Blk) (f i : Nat) : Nat := fld (reg b (aF f 0)) 9 4 * 0x1000 + 256 * i

/-- The cells of the item that a peer frame becomes (R139). -/
def peerItem (x : AFrame) (b : Blk) : List BCell × Blk :=
  let src := hSrc x.hdr
  let ws := x.pay.map (fun w => (wBody w, wP w))
  let y := takeCells 4 (payCells ws) b
  let d (i : Nat) : BitVec 14 := (nth absentCell y.1 i).v
  let head (kind fd n : Nat) : BCell := cleanN (kind * 8192 + x.link * 512 + fd * 64 + n)
  if x.typ = 5 then
    ([head 1 (fld (d 1) 0 3) 1, clean (src.extractLsb' 0 14),
      cleanN (fld (d 2) 0 1 * 8192 + fld (d 2) 1 2 * 2048 + src.toNat / 16384), nth absentCell y.1 0], y.2)
  else
    let n := min 32 (fld (d 0) 0 6)
    let z := takeCells n (payCells (ws.drop 1)) y.2
    let pb (i : Nat) : Bool := bit (d (1 + i / 14)) (i % 14)
    ([head 0 (fld (d 0) 11 3) n, clean (src.extractLsb' 0 14), cleanN (src.toNat / 16384)]
      ++ z.1.zipIdx.map (fun e => { v := e.1.v, p := pb e.2 : BCell }), z.2)

/-- One peer frame of the slot becomes an item, where it fits (R139). -/
def peerAdd (f seq : Nat) (x : AFrame) (b : Blk) : Blk :=
  match recOf b f seq with
  | some r =>
    match r.peer with
    | some (n, c, ovf) =>
      let y := peerItem x b
      if ovf then b
      else if 252 < c + y.1.length then orReg (aF f 0x001) 0x80 (onRec f seq (fun r => { r with peer := some (n, c, true) }) b)
      else
        let b := onField f (fun g => { g with wpeer := g.wpeer ++ queued seq (peerOff y.2 f r.ridx + 4 + c) y.1 }) y.2
        onRec f seq (fun r => { r with peer := some (n + 1, c + y.1.length, false) }) b
    | none => b
  | none => b

/-- The four header cells of the peer entry (R139, R140). NITEM counts to 63, and an entry has room for 84 items of three cells: for
more than 63 the spec states no NITEM, and it is free (log entry 109). -/
def peerHeader (f : Nat) (r : SlotRec) (b : Blk) : Blk :=
  match r.peer with
  | some (n, c, ovf) =>
    let x := if n ≤ 63 then (n, b) else ((freeCellOf b).1.toNat % 64, (freeCellOf b).2)
    writerCells f r.seq (peerOff b f r.ridx)
      [clean r.slot, clean r.sweep, cleanN (b2n ovf * 8192 + x.1), cleanN c] x.2
  | none => b

def execMapSample (f rel : Nat) (s : State) := run (mapSampleEff f rel) s
def execBorderCopy (f : Nat) (s : State) := run (fun b => if clocked b f then borderEff f b else b) s

end Sys2Proof.Machine
end

