-- ==== Sys2Proof/Machine/Matcher.lean ====
section
/-! DEFINITION. The window matcher (chapter 5): the working copy, the close of a slot, the groups, and the slot record. -/

namespace Sys2Proof.Machine

/-! The working copy (R155 to R158, R163). -/

/-- The four cells of descriptor w of a set, read and counted (R155, R158). -/
def readDescriptor (f : Nat) (set : Bool) (w : Nat) (b : Blk) : List BCell × Blk :=
  let o := b2n set * 0x400 + 4 * w
  let c0 := rdMem (.winTab f o) 8 b
  let c1 := rdMem (.winTab f (o + 1)) 8 c0.2
  let c2 := rdMem (.winTab f (o + 2)) 8 c1.2
  let c3 := rdMem (.winTab f (o + 3)) 8 c2.2
  ([c0.1, c1.1, c2.1, c3.1], c3.2)

/-- The window that four clean cells describe; none when EN is 0 (R155). -/
def winOf (w : Nat) (c : List BCell) : Option Win :=
  let d (i : Nat) : BitVec 14 := (nth absentCell c i).v
  if bit (d 2) 13 then
    some { w := w, u0 := fld (d 0) 7 7, u1 := fld (d 0) 0 7, v0 := fld (d 1) 7 7, v1 := fld (d 1) 0 7, grp := fld (d 2) 9 4,
           umask := fld (d 2) 6 3, neg := bit (d 2) 5, mse := fld (d 2) 0 5, mincnt := fld (d 3) 8 6, msm := fld (d 3) 0 8,
           cnt := 0, sum := 0 }
  else none

/-- The working copy from window w on, `n` windows being left: the enabled clean windows, whether one was poisoned. -/
def workingCopy (f : Nat) (set : Bool) : Nat → Nat → Blk → List Win × Bool × Blk
  | 0, _, b => ([], false, b)
  | n + 1, w, b =>
    let x := readDescriptor f set w b
    let y := workingCopy f set n (w + 1) x.2
    if x.1.any (fun c => c.p) then (y.1, true, y.2.2) else ((winOf w x.1).toList ++ y.1, y.2.1, y.2.2)

/-- The majorities of a set (R163). -/
def majorities (b : Blk) (f : Nat) (set : Bool) : List Nat :=
  (List.range 16).map (fun g => (reg b (aF f (0x0A0 + b2n set * 16 + g))).toNat)

/-! Evaluation (R164, R165). -/

/-- The match bit of an enabled clean window (R165). -/
def winMatch (w : Win) : Bool :=
  let m := decide (max w.mincnt 1 ≤ w.cnt) && decide (w.msm * 2 ^ w.mse ≤ w.sum)
  if w.neg then !m else m

def cntSat (w : Win) : Bool := decide (w.cnt = 16383)
def sumSat (w : Win) : Bool := decide (w.sum = 2 ^ 28 - 1)

/-- The matched windows in ascending order. -/
def matched (r : SlotRec) : List Win := r.wins.filter winMatch

/-- Cell 23 + g of the record (R164, R169). -/
def groupCell (r : SlotRec) (g : Nat) : BCell :=
  let n := ((matched r).filter (fun w => decide (w.grp = g))).length
  let maj := nth 0 r.maj g
  let sat := (r.wins.filter (fun w => decide (w.grp = g))).any (fun w => cntSat w || sumSat w)
  cleanN (b2n (decide (maj ≠ 0) && decide (maj ≤ n)) * 8192 + b2n sat * 4096 + n)

/-- Cell 4 + i of the record: 14 match bits (R168). -/
def bitmapCell (r : SlotRec) (i : Nat) : BCell :=
  cleanN (sumN ((matched r).map (fun w => if w.w / 14 = i then 2 ^ (w.w % 14) else 0)))

/-- The three cells of a match-list entry (R169, R170). -/
def entryCells (w : Win) : List BCell :=
  let s := min w.sum 1048575
  [cleanN (s / 16384 * 256 + w.w), cleanN w.cnt, cleanN (s % 16384)]

/-- The status cell (R169, R171). -/
def statusCell (r : SlotRec) : BCell :=
  let n := (matched r).length
  cleanN (b2n (decide (32 < n)) * 8192 + b2n (r.wins.any cntSat) * 4096 + b2n (r.wins.any sumSat) * 2048 + n)

/-- The four header cells (R169). -/
def headerCells (f : Nat) (r : SlotRec) : List BCell :=
  [clean r.slot, clean r.sweep,
   cleanN (f * 2048 + b2n r.wsel * 1024 + b2n r.msel * 512 + b2n r.gsel * 256 + b2n r.wpois * 128 + r.ridx), cleanN r.hits]

/-- The 136 cells of the slot record (R168). -/
def recordCells (f : Nat) (r : SlotRec) : List BCell :=
  let es := ((matched r).take 32).flatMap entryCells
  headerCells f r ++ (List.range 19).map (bitmapCell r) ++ (List.range 16).map (groupCell r)
    ++ es ++ List.replicate (96 - es.length) (clean 0) ++ [statusCell r]

/-- The offset of record i in the field's memory (R172). -/
def recordOff (b : Blk) (f i : Nat) : Nat :=
  let v := reg b (aF f 0x080)
  fld v 8 4 * 0x1000 + fld v 0 8 * 8 + 136 * i

/-! The close of a slot (R150, R165). -/

/-- Mapping closes: what is left in the FIFO and unreleased is cut, and poisons the slot when it holds a sample (R150). -/
def cutMapping (f : Nat) (r : SlotRec) (b : Blk) : Blk :=
  let g := fieldOf b f
  let n := g.fifo.length + sumN (g.relq.map (fun w => w.length))
  let b := onField f (fun g => { g with fifo := [], relq := [] }) b
  if n = 0 then b else poisonMapped f r 5 0x04D n 436 b

/-- The counters of a closed slot (R161, R171). -/
def matchCounts (f : Nat) (r : SlotRec) (b : Blk) : Blk :=
  let n := (matched r).length
  let b := if 32 < n then orReg (aF f 0x081) 8 (count (aF f 0x083) b) else b
  let b := if r.wins.any (fun w => cntSat w || sumSat w) then orReg (aF f 0x081) 4 (count (aF f 0x086) b) else b
  peak (aF f 0x087) n b

/-- Close the slot being mapped (R150, R165): the peer header is written, and the writer takes the record, at the slot's ring index. -/
def closeSlot (f : Nat) (b : Blk) : Blk :=
  match openRec b f with
  | some r =>
    let b := matchCounts f r (peerHeader f r (cutMapping f r b))
    let b := onField f (fun g => { g with wrec := g.wrec ++ queued r.seq (recordOff b f r.ridx) (recordCells f r) }) b
    onField f (fun g => { g with ridx := (r.ridx + 1) % 16 }) (onRec f r.seq (fun r => { r with closed := true }) b)
  | none => b

/-! The release of a slot (R131, R135, R139, R157). -/

/-- Expected links of the field that have no on-time frame of the slot, or are not UP (R135). -/
def missingLinks (b : Blk) (f : Nat) (tag : BitVec 14) : List Nat :=
  (List.range 12).filter (fun j =>
    bit (reg b (aF f 0x043)) j &&
    (decide ((linkOf b (12 * f + j)).st ≠ 2) || !((fieldOf b f).abuf.any (fun x => decide (x.link = j) && decide (x.tag = tag)))))

/-- The frames of a slot, in ascending link order and arrival order within a link (R131). -/
def slotFrames (g : Field) (tag : BitVec 14) : List AFrame :=
  (List.range 12).flatMap (fun j => g.abuf.filter (fun x => decide (x.link = j) && decide (x.tag = tag)))

/-- The record of a slot whose release begins. -/
def newRec (b : Blk) (f : Nat) (t : Tag) : SlotRec :=
  let ms := reg b (aF f 0x041)
  { seq := t.seq, slot := t.slot, sweep := lo14 t.sweep, nolock := t.nolock, ridx := (fieldOf b f).ridx, member := none, n := 0,
    wsel := bit (reg b (aF f 0x081)) 0, msel := bit ms 1, gsel := bit ms 2, mapctl := reg b (aF f 0x040),
    zs := reg b (aF f 0x044), masks := (List.range 32).map (fun j => (reg b (aF f (0x060 + j))).toNat), wins := [],
    maj := majorities b f (bit (reg b (aF f 0x081)) 0), wpois := false, hits := 0, pois := false, closed := false,
    dispatched := false, marked := false, decision := none, prims := [],
    peer := if bit (reg b (aF f 0)) 13 then some (0, 0, false) else none, sd := bit (reg b (aF f 0x001)) 0, settled := none }

/-- A descriptor of the working copy was poisoned (R158). -/
def wpoison (f seq : Nat) (b : Blk) : Blk :=
  poisonSlot f seq (orReg (aF f 0x081) 0x10 (count (aF f 0x084) (onRec f seq (fun r => { r with wpois := true }) b)))

/-- Release of the slot whose boundary had tag `t` begins (R131, R135, R139, R157). -/
def releaseSlot (f : Nat) (t : Tag) (b : Blk) : Blk :=
  let miss := missingLinks b f t.slot
  let b := each (fun _ b => noteSource f 437 (count (aF f 0x04E) (markFor f t.slot 6 b))) miss b
  let fr := slotFrames (fieldOf b f) t.slot
  let r := newRec b f t
  let b := onField f (fun g => { g with
    abuf := g.abuf.filter (fun x => x.tag != t.slot), pipe := g.pipe ++ [r],
    relq := (fr.filter (fun x => decide (x.typ ≤ 3))).flatMap frameSamples, fifo := [] }) b
  let wc := workingCopy f r.wsel 256 0 b
  let b := onRec f t.seq (fun r => { r with wins := wc.1 }) wc.2.2
  let b := if wc.2.1 then wpoison f t.seq b else b
  let b := if (fieldOf b f).cur.sps < alignA b + 3 then noteSource f 443 (noteCause f t.slot 11 (poisonSlot f t.seq b)) else b
  each (fun x b => peerAdd f t.seq x b) (fr.filter (fun x => decide (4 ≤ x.typ))) b

end Sys2Proof.Machine
end

