-- ==== Sys2Proof/Machine/EngBase.lean ====
section
/-! DEFINITION. Operations on an engine and its contexts that the slot path, the scheduler and the syllables share
(chapters 6, 10, 12): switches, locked sequences, long operations in flight, and the stacks' caches. -/

namespace Sys2Proof.Machine

/-- The cache sizes of a context (R181, R191). -/
def capData (c : Nat) : Nat := if c = 4 then 8 else 16
def capRet (c : Nat) : Nat := if c = 4 then 4 else 8

/-- A clean engine cell, and a poisoned empty place (R181). -/
def sc (v : BitVec 28) : SCell := { v := v, p := false, pend := false }
def scP (v : BitVec 28) (p : Bool) : SCell := { v := v, p := p, pend := false }
def sc14 (v : BitVec 14) : SCell := sc (v.setWidth 28)
def emptyPlace : SCell := scP 0 true

/-- A reserved place whose operation is discarded holds 0x0000 with P = 1. -/
def dropPend (c : SCell) : SCell := if c.pend then emptyPlace else c

/-- The code store of engine e, or the joined code store of a pair (R200, R322): its first address and length. -/
def codeBase (e : Nat) : Nat := 0x80000 + e * 0x1000
def codeLen (b : Blk) (e : Nat) : Nat := if isTwin b e then 0x2000 else 0x1000

/-- The engine executes: RUN is 1, or it has still to reach its next instruction boundary (R213, R214): a paired syllable, an access to
the host window, a locked sequence or an event entry is under way. -/
def goesOn (b : Blk) (e : Nat) : Bool :=
  let x := engOf b e
  runBit b e || x.entry.isSome || (x.coast && (x.pairB || decide (0 < x.hmNeed) || lockHeld b e))

/-- The engine may issue: it executes, and is neither halted by debug (but for the step that debug asked for, R539) nor stopped by
a machine check, nor held by a warm reset in progress (R493). -/
def engRuns (b : Blk) (e : Nat) : Bool :=
  decide (e < nEngines b) && goesOn b e && (!((engOf b e).halted) || (engOf b e).stepping) && !((engOf b e).mchk) && !b.md.warm &&
  clocked b (fldOf e) && !(isOdd b e)

/-- The running context as ESTAT.RUNCTX reports it (R213): 7 when none. -/
def runCtx (b : Blk) (e : Nat) : Nat := if goesOn b e then (engOf b e).run.getD 7 else 7

/-- The class of the present member engine in its field's rotation: C0 holds a slot (R367). -/
def holdsSlot (b : Blk) (e : Nat) : Bool := (engOf b e).slot.isSome

/-- What asks engine e to halt, if anything does: a request made, or DBGCTL.HALT reading 1 (R536). -/
def haltDue (b : Blk) (e : Nat) : Option Nat :=
  if (engOf b e).halted then none
  else
    match (engOf b e).haltReq with
    | some c => some c
    | none => if bit (reg b (aE e 0x30)) 0 then some 1 else none

/-! Long operations complete (R304, R305). -/

/-- Fill pending places, given deepest first, with the results of one operation. -/
def fillUp : List SCell → List (BitVec 28 × Bool) → List SCell
  | [], _ => []
  | c :: cs, [] => c :: cs
  | c :: cs, r :: rs => if c.pend then scP r.1 r.2 :: fillUp cs rs else c :: fillUp cs (r :: rs)

/-- The same for a stack held top first. -/
def fillPlaces (l : List SCell) (r : List (BitVec 28 × Bool)) : List SCell := (fillUp l.reverse r).reverse

/-- PS with the flags of a long operation written. -/
def lopPs (o : LOp) (ps : BitVec 14) : BitVec 14 := (ps &&& ~~~o.psMask) ||| o.psVal

/-- The oldest long operation of engine e completes: its places fill, and its flags land in its context (R305, R307). -/
def completeLop (e : Nat) (b : Blk) : Blk :=
  match (engOf b e).lops with
  | [] => b
  | o :: os =>
    let b := onCtx e o.ctx (fun y => { y with
      data := fillPlaces y.data o.res, ps := lopPs o y.ps, fstatus := y.fstatus ||| o.fl }) b
    onEng e (fun x => { x with fst := fillPlaces x.fst o.fres, lops := os }) b

/-- How many entries of a list stand up to the last one with a property, and up to the first one; 0 where none has it. -/
def upToLast {α : Type} (p : α → Bool) : List α → Nat
  | [] => 0
  | x :: xs => if p x || xs.any p then upToLast p xs + 1 else 0
def upToFirst {α : Type} (p : α → Bool) : List α → Nat
  | [] => 0
  | x :: xs => if p x then 1 else if xs.any p then upToFirst p xs + 1 else 0

/-- Every long operation of engine e up to the last with a property completes: what a reader of its place or flag waits for (R305,
R306); up to the first; and every one. -/
def settleLast (p : LOp → Bool) (e : Nat) (b : Blk) : Blk := times (completeLop e) (upToLast p (engOf b e).lops) b
def settleFirst (p : LOp → Bool) (e : Nat) (b : Blk) : Blk := times (completeLop e) (upToFirst p (engOf b e).lops) b
def settleLops (e : Nat) (b : Blk) : Blk := times (completeLop e) (engOf b e).lops.length b

/-- A long operation of context c; one with data results there; one that writes some of the PS flags in a mask there. -/
def lopOf (c : Nat) (o : LOp) : Bool := decide (o.ctx = c)
def lopData (c : Nat) (o : LOp) : Bool := lopOf c o && !(o.res.isEmpty)
def lopFlags (c : Nat) (m : BitVec 14) (o : LOp) : Bool := lopOf c o && decide (o.psMask &&& m ≠ 0)

/-- PS of context c with the flags of its long operations in flight, as it would stand had they completed (R266). -/
def psSettled (b : Blk) (e c : Nat) : BitVec 14 := each lopPs ((engOf b e).lops.filter (lopOf c)) (ctxOf b e c).ps

/-! Long operations are discarded (R239, R251). -/

/-- The long operations of context c are discarded: their flags are not written, their places hold no value. -/
def dropLops (e c : Nat) (b : Blk) : Blk :=
  let mine := (engOf b e).lops.any (fun o => decide (o.ctx = c))
  let b := onEng e (fun x => { x with lops := x.lops.filter (fun o => decide (o.ctx ≠ c)) }) b
  if mine then
    onEng e (fun x => { x with fst := x.fst.map dropPend }) (onCtx e c (fun y => { y with data := y.data.map dropPend }) b)
  else b

/-! Stacks (R192). -/

def emptyStacks (y : Ctx) : Ctx := { y with data := [], ret := [], dgrp := 0, rgrp := 0, dsp := y.dbase, rsp := y.rbase }

/-! Switches (R180, R193, R370). -/

/-- A switch into context c: its FPA clears, the prefetch buffer empties, and class 21 is debited (R193, R373). -/
def switchIn (e c : Nat) (b : Blk) : Blk :=
  if (engOf b e).run = some c then b
  else
    let was := (engOf b e).run
    let b := onEng e (fun x => { x with
      run := some c, pf := [], turnOver := false, lastRan := match was with
        | some k => if k ≤ 3 then k else x.lastRan
        | none => x.lastRan }) b
    debitCycles e c 21 1 (onCtx e c (fun y => { y with ps := y.ps &&& 0x37FF }) b)

/-- No context runs. -/
def stopRun (e : Nat) (b : Blk) : Blk :=
  onEng e (fun x => { x with
    run := none, pf := [], lastRan := match x.run with
      | some k => if k ≤ 3 then k else x.lastRan
      | none => x.lastRan }) b

end Sys2Proof.Machine
end

