-- ==== Sys2Proof/Machine/Micro.lean ====
section
/-! DEFINITION. The control stores (chapter 14): microwords, nano-words and patch entries, the path that the sequencer takes through
them, and the machine check. The ROM's content is not given: its words are constants of Config. -/

namespace Sys2Proof.Machine

/-! Micro addresses (R427). -/

/-- The hardware sequences, whose addresses the ROM fixes. -/
inductive HwSeq where
  | spill | fill | switch | trap | event | dispatch
deriving DecidableEq, Repr

/-- Their number for Config. -/
def HwSeq.num : HwSeq → Nat
  | .spill => 0
  | .fill => 1
  | .switch => 2
  | .trap => 3
  | .event => 4
  | .dispatch => 5

/-- Where a hardware sequence starts: from 0x600 on. -/
def seqEntry (q : HwSeq) : Nat := 0x600 + (Config.sequenceAt q.num).toNat

/-- Where the routine of a syllable starts, by its code, its partner field, and whether it is an extended operation. -/
def sylEntry (code partner : Nat) (ext : Bool) : Nat := if ext then 0x400 + 4 * partner else 8 * code

/-! Words (R428, R429, R438). -/

/-- NANO and NEXT of the ROM microword at an address. -/
def romNano (a : Nat) : Nat := ((Config.microWord a).extractLsb' 0 9).toNat
def romNext (a : Nat) : Nat := ((Config.microWord a).extractLsb' 9 11).toNat

/-- What the sequencer uses of a nano-word: COMMIT and SEQ. -/
structure NanoCtl where
  commit : Bool
  seq : Nat
deriving DecidableEq, Repr

/-- Of the ROM nano-word n, and of the nano-word of a patch entry, whose bits 95 to 84 stand in cell 8. -/
def romCtl (n : Nat) : NanoCtl :=
  { commit := (Config.nanoWord n).getLsbD 94, seq := ((Config.nanoWord n).extractLsb' 89 3).toNat }
def patchCtl (l : List (BitVec 14)) : NanoCtl := { commit := bit (nth 0 l 8) 10, seq := fld (nth 0 l 8) 5 3 }

/-- The next address, from SEQ, NEXT or PIDX, and the conditions that COND selects (R430): bit 0 or bits 1:0 are replaced. -/
def sequel (seq next cond : Nat) : Nat :=
  if seq = 1 then next / 2 * 2 + cond % 2 else if seq = 2 then next / 4 * 4 + cond % 4 else next

/-- The routine ends here (R430). -/
def ends (seq cond : Nat) : Bool := seq == 3 || (seq == 4 && cond % 2 == 1)

/-! The path through a routine (R430, R434, R437, R438). -/

/-- Where the sequencer stands: at a ROM micro address, or at a patch entry. -/
inductive Spot where
  | rom (a : Nat)
  | entry (p : Nat)
deriving DecidableEq, Repr

/-- The comparison of R437: a ROM address that an enabled match register names is replaced by its patch entry. -/
def patchedAt (b : Blk) : Spot → Spot
  | .rom a =>
    match b.mc.patch.mregs.find? (fun m => m.1 && decide (m.2.1 = a)) with
    | some m => .entry m.2.2
    | none => .rom a
  | .entry p => .entry p

/-- The parity check of what the sequencer reads (R434): a cause, MCADDR and MCNANO. -/
def parityFault (g : CtrlFaults) : Spot → Option (Nat × BitVec 14 × BitVec 14)
  | .rom a =>
    if g.micro.contains a then some (1, BitVec.ofNat 14 a, BitVec.ofNat 14 (romNano a))
    else if g.nano.contains (romNano a) then some (2, BitVec.ofNat 14 a, BitVec.ofNat 14 (romNano a))
    else none
  | .entry p => if g.entry.contains p then some (3, BitVec.ofNat 14 (0x2000 + p), 0) else none

/-- COMMIT and SEQ of the step at a spot; the fields of a reserved SEQ's machine check; and the spot after it. -/
def ctlAt (b : Blk) : Spot → NanoCtl
  | .rom a => romCtl (romNano a)
  | .entry p => patchCtl (nth [] b.mc.patch.entries p)
def spotInfo : Spot → BitVec 14 × BitVec 14
  | .rom a => (BitVec.ofNat 14 a, BitVec.ofNat 14 (romNano a))
  | .entry p => (BitVec.ofNat 14 (0x2000 + p), 0)
def spotNext (b : Blk) (seq cond : Nat) : Spot → Spot
  | .rom a => .rom (sequel seq (romNext a) cond % 2048)
  | .entry p =>
    let l := nth [] b.mc.patch.entries p
    if bit (nth 0 l 0) 13 then .entry (sequel seq (fld (nth 0 l 0) 8 5) cond % 32)
    else .rom (sequel seq (fld (nth 0 l 1) 0 11) cond % 2048)

/-- What a routine's path gives: it ends as the ROM's does; a patch took a part in it and it passes no commit point, so that it
changes nothing (R431); or a machine check (R434), before or after its commit point. -/
inductive Micro where
  | fine
  | idle
  | check (cause : Nat) (addr nano : BitVec 14) (after : Bool)
deriving DecidableEq, Repr

/-- The path from a spot on, for at most n steps: `patched` and `committed` tell what lies behind. The conditions are free values. -/
def walk (b : Blk) (f : Nat) (patched committed : Bool) : Nat → Spot → Micro
  | 0, _ => if patched && !committed then .idle else .fine
  | n + 1, s =>
    let s := patchedAt b s
    match parityFault (fieldOf b f).ctrl s with
    | some x => .check x.1 x.2.1 x.2.2 committed
    | none =>
      let w := ctlAt b s
      let cond := Config.freeCond b.free n
      let patched := patched || (match s with
        | .entry _ => true
        | .rom _ => false)
      let committed := committed || w.commit
      if 5 ≤ w.seq then .check 5 (spotInfo s).1 (spotInfo s).2 committed
      else if ends w.seq cond then (if patched && !committed then .idle else .fine)
      else walk b f patched committed n (spotNext b w.seq cond s)

/-- No parity fault of field f and no patch can touch any routine. -/
def plainStores (b : Blk) (f : Nat) : Bool :=
  decide ((fieldOf b f).ctrl = CtrlFaults.none) && b.mc.patch.mregs.all (fun m => !m.1)

/-- What the routine at a micro address gives in field f. Where no fault and no patch can touch it, it runs as the ROM has it (R430:
the figures of the chapters are the binding ones). -/
def micro (b : Blk) (f a : Nat) : Micro := if plainStores b f then .fine else walk b f false false 2048 (.rom a)

/-- Routines one after another: the first that does not run as it should. -/
def micros (b : Blk) (f : Nat) : List Nat → Micro
  | [] => .fine
  | a :: as => if micro b f a = .fine then micros b f as else micro b f a

/-! The machine check (R434, R435). -/

/-- Engine e halts with a machine check of a cause at a micro address: the record, the count, the source and the steward's report. -/
def mcheckHalt (e cause : Nat) (addr : BitVec 14) (nano : BitVec 14) (src : Nat) (b : Blk) : Blk :=
  let b := onEng e (fun x => { x with mchk := true, stepping := false, pairB := false, entry := none, coast := false }) b
  let b := count (aB 0x203) b
  let b := if bit (reg b (aB 0x200)) 13 then orReg (aB 0x200) 0x1000 b
    else setReg (aB 0x202) nano (setReg (aB 0x201) addr (setReg (aB 0x200)
      (BitVec.ofNat 14 (0x2000 + cause * 0x200 + e) ||| (reg b (aB 0x200) &&& 0x1000)) b))
  let b := raise (fldOf e) src b
  let b := stwRaise 482 (orReg (aB 0x141) 8 b)
  if bit (reg b (aB 0x140)) 1 then sendStatus b else b

end Sys2Proof.Machine
end

