-- ==== Sys2Proof/Machine/Slot.lean ====
section
/-! DEFINITION. The slot path (chapter 1): rotation, dispatch, overrun, the end of a slot, emission, and what a field does at a
slot boundary; then the boundary of the whole block (R58), the fabric's part of it and the DEC port (R36, R51). -/

namespace Sys2Proof.Machine

/-! Rotation (R27, R28). -/

/-- The members of the rotation set in ascending order of local index (R27). -/
def members (b : Blk) (f : Nat) : List Nat := (List.range 8).filter (fun k => isMember b (8 * f + k))

/-- n, the number of members. -/
def memberCount (b : Blk) (f : Nat) : Nat := (members b f).length

/-- ROTPOS as it reads (R52): ENG stands at its warm value 0 until ROT is written or FEN takes effect. -/
def rotposRead (b : Blk) (f : Nat) : BitVec 14 :=
  let n := memberCount b f
  let p := (fieldOf b f).pos % max 1 n
  BitVec.ofNat 14 ((if (fieldOf b f).posWarm then 0 else nth 0 (members b f) p * 128) + p * 16 + n)

/-! Settling (R38 to R45, R50). -/

/-- The active SAFEDEC value of a slot (R50). -/
def safedec (b : Blk) (f : Nat) (r : SlotRec) : BitVec 14 := reg b (aF f (if r.sd then 0x009 else 0x008))

/-- Settle a slot with a decision cell and a reason (R101), and hand the decision to the DEC port (R51). -/
def settleSlot (f : Nat) (r : SlotRec) (cell : BitVec 14) (reason : Nat) (b : Blk) : Blk :=
  let b := onRec f r.seq (fun r => { r with settled := some { cell := cell, reason := reason } }) b
  onTb (fun t => { t with decq := t.decq ++ [{ f := f, seq := r.seq, slot := r.slot, code := cell.extractLsb' 0 7,
                                               subst := decide (reason ≠ 0) }] }) b

/-- SLOTEND commits in time (R40, R43 to R45). -/
def settleEnd (f : Nat) (r : SlotRec) (spois : Bool) (b : Blk) : Blk :=
  if r.marked ∨ spois then
    raise f 507 (count (aF f 0x00B) (settleSlot f r (safedec b f r) 2 b))
  else
    match r.decision with
    | some d => settleSlot f r d 0 b
    | none => count (aF f 0x00C) (settleSlot f r (safedec b f r) 3 b)

/-- C0 of engine e is abandoned (R39, R208): at once, or, where FE handles a trap taken in C0, when FE returns. A sequence that it
holds breaks and sets DBGSTAT.BROKE (R537). -/
def abandon (e : Nat) (b : Blk) : Blk :=
  let x := engOf b e
  let b := onEng e (fun x => { x with slot := none }) b
  if x.run = some 4 ∧ fld (reg b (aE e 0x04)) 10 3 = 0 then onEng e (fun x => { x with abandFE := true }) b
  else
    let b := dropLops e 0 (orReg (aE e 0x01) 0x20 b)
    let b := if (lockOf b e 0).any (fun k => !k.broken) then orReg (aE e 0x31) 4 b else b
    let b := endLock e 0 b
    let b := if x.run = some 0 then onEng e (fun x => { x with hmNeed := 0, hmGot := [], pairB := false }) b else b
    let b := onCtx e 0 (fun y => { y with state := 0, mip := false, mprog := 0, mfree := false }) b
    if x.run = some 0 then stopRun e b else b

/-- The addresses of F.DECISION and F.PRIMQ. -/
def isSlotReg (f a : Nat) : Bool := decide (a = aF f 0x006) || decide (a = aF f 0x007)

/-- A slot overruns (R39, R41). -/
def overrunSlot (f : Nat) (r : SlotRec) (b : Blk) : Blk :=
  let b := match r.member with
    | some k =>
      let e := 8 * f + k
      if (engOf b e).slot = some r.seq then
        abandon e (onEng e (fun x => { x with sbuf := x.sbuf.filter (fun w => !(decide (w.seq = some r.seq))) }) b)
      else b
    | none => b
  let b := settleSlot f r (safedec b f r) 1 (onRec f r.seq (fun r => { r with prims := [] }) b)
  raise f 506 (orReg (aF f 0x001) 0x10 (setReg (aF f 0x00E) r.slot (count (aF f 0x00A) b)))

/-- The slot is past its deadline, the start of slot s + A + 2 + n, and not settled (R35). -/
def isLate (b : Blk) (f : Nat) (r : SlotRec) : Bool :=
  r.settled.isNone && r.closed && r.member.isSome && decide (r.seq + alignA b + 2 + r.n ≤ (fieldOf b f).cur.seq)

/-- The overruns that are due in field f (R39). -/
def overrunIfLate (f : Nat) (b : Blk) : Blk :=
  each (fun r b => if isLate b f r then overrunSlot f r b else b) (fieldOf b f).pipe b

/-! Dispatch (R30 to R33, R186). -/

/-- The member can take the dispatch: it is at an instruction boundary, with FE not running and no locked sequence held
(R30, R180, R231, R538). -/
def canDispatch (b : Blk) (e : Nat) : Bool :=
  engRuns b e && !((engOf b e).halted) && (haltDue b e).isNone && !(engOf b e).pairB && decide ((engOf b e).run ≠ some 4) &&
  !(lockHeld b e) && decide ((engOf b e).hmNeed = 0) && (engOf b e).entry.isNone

/-- The slot that field f dispatches next: the oldest one, not settled, whose member can take it (R30). -/
def waitingSlot (b : Blk) (f : Nat) : Option SlotRec :=
  (fieldOf b f).pipe.find? (fun r => r.settled.isNone && !r.dispatched && r.member.any (fun k => canDispatch b (8 * f + k)))

/-- recbase (R31). -/
def recbase (b : Blk) (f e : Nat) (r : SlotRec) : BitVec 28 :=
  let off := recordOff b f r.ridx
  if isTwin b e then BitVec.ofNat 28 (f * 0x10000 + off)
  else BitVec.ofNat 28 (fld (reg b (aF f 0)) 3 2 * 0x1000 + off % 0x1000)

/-- Where C0 starts (R32). -/
def slotEntry (b : Blk) (f e : Nat) : BitVec 28 :=
  let v := reg b (aF f 0x005)
  if isTwin b e then BitVec.ofNat 28 (codeBase e + v.toNat % 0x2000) else v.setWidth 28

/-- C0 as dispatch leaves it (R30, R186). -/
def dispatched (b : Blk) (f e : Nat) (r : SlotRec) (y : Ctx) : Ctx :=
  { emptyStacks y with
    data := [scP (r.slot.setWidth 28) r.pois, sc (recbase b f e r)], pc := slotEntry b f e, sylb := false,
    ps := reg b (aE e 0x09), fstatus := y.fstatus &&& 0x3FE0, state := 1, spois := r.pois, mip := false, mprog := 0, mfree := false,
    rmOld := none }

/-- Unit 2j of field f's linked watches armed for C0 of engine e disarms (R546). -/
def disarm (f e : Nat) (b : Blk) : Blk :=
  onField f (fun g => { g with dwl := g.dwl.map (fun l => match l with
    | some x => if x.eng = e ∧ x.ctx = 0 then none else l
    | none => l) }) b

/-- Dispatch a slot to its member (R30). -/
def dispatchSlot (f : Nat) (r : SlotRec) (b : Blk) : Blk :=
  match r.member with
  | some k =>
    let e := 8 * f + k
    if canDispatch b e then
      match micros b f (if (engOf b e).run = some 0 then [seqEntry .dispatch] else [seqEntry .dispatch, seqEntry .switch]) with
      | .check c a n _ => mcheckHalt e c a n 509 b
      | .idle => b
      | .fine =>
      let b := switchIn e 0 (disarm f e (settleLast (lopOf 0) e b))
      let b := onCtx e 0 (dispatched b f e r) b
      onRec f r.seq (fun r => { r with dispatched := true }) (onEng e (fun x => { x with slot := some r.seq }) b)
    else b
  | none => b

/-- DISPATCH: the overruns that are due come first (R37). -/
def dispatchEff (f : Nat) (b : Blk) : Blk :=
  let b := overrunIfLate f b
  match waitingSlot b f with
  | some r => dispatchSlot f r b
  | none => b

/-! Emission (R49, R123). -/

/-- The slot leaves the block (R49). -/
def emitSlot (f : Nat) (r : SlotRec) (b : Blk) : Blk :=
  match r.settled with
  | some d =>
    let b := onField f (fun g => { g with pipe := g.pipe.filter (fun x => x.seq != r.seq) }) b
    let b := sendEvery 4 none (decisionFrameOf b f r.slot d.cell d.reason) b
    if bit (reg b (aF f 0)) 2 ∧ r.prims ≠ [] then sendEvery 5 none (primFrameOf b f r.slot r.prims) b else b
  | none => b

/-- The slots whose latency L has passed (R34). -/
def emitDue (f : Nat) (b : Blk) : Blk :=
  each (fun r b => if r.settled.isSome ∧ r.seq + alignA b + 3 + r.n ≤ (fieldOf b f).cur.seq then emitSlot f r b else b)
    (fieldOf b f).pipe b

/-! A field's slot boundary (R25). -/

/-- A clearing of FEN takes effect (R136, R578). The slots on their way that an open suspect interval covers are marked (R134). -/
def fenEnds (f : Nat) (b : Blk) : Blk :=
  let b := each (fun (r : SlotRec) b =>
    if r.member.isNone ∧ r.settled.isNone ∧ suspCovers (fieldOf b f) r.seq = true then suspectSlot f r.slot b else b) (fieldOf b f).pipe b
  onField f (fun g => { g with fenEff := false, fenDrop := false, abuf := [], susp := [], border := [] }) b

/-- FEN changes take effect (R28, R136, R578): a clearing first, then a setting, which waits for BUSY at 0. -/
def fenChange (f : Nat) (t : Tag) (b : Blk) : Blk :=
  let b := if (fieldOf b f).fenDrop then fenEnds f b else b
  let g := fieldOf b f
  if g.fenEff = false ∧ fenBit b f ∧ g.pipe.isEmpty = true ∧ levelOf b f = 8 then
    let off := fld (reg b (aF f 0x003)) 8 3 % max 1 (memberCount b f)
    onField f (fun g => { g with
      fenEff := true, k0 := t.seq, pos := off, posWarm := false, marks := [], cause := [], caused := [], susp := [], abuf := [], ridx := 0, border := [] }) b
  else b

/-- The boundary that lies n boundaries back, as the field saw it. -/
def tagBack (g : Field) (n : Nat) : Option Tag := g.tags.find? (fun t => decide (t.seq + n = g.cur.seq))

/-- One swap request of the field takes effect (R50, R143, R159). -/
def fieldSwap (f : Nat) (x : Swap) (b : Blk) : Blk :=
  if x.kind = 0 then setReg (aF f 0x041) (reg b (aF f 0x041) ^^^ 2) b
  else if x.kind = 1 then setReg (aF f 0x081) (reg b (aF f 0x081) ^^^ 1) b
  else if x.kind = 3 then setReg (aF f 0x001) (reg b (aF f 0x001) ^^^ 1) b
  else if x.kind = 4 then setReg (aF f 0x041) (reg b (aF f 0x041) ^^^ 4) b
  else b

/-- A request keyed to the slot whose release begins at this boundary, the start of slot k + A. R50 gives the slots that a
SAFEDEC swap applies to and not the boundary at which FSTAT.SDSET itself inverts: the model inverts it here too (log entry
90). -/
def swapDue (b : Blk) (f : Nat) (x : Swap) : Bool :=
  match tagBack (fieldOf b f) (alignA b) with
  | some t => decide (t.slot = x.slot) && decide (lo14 t.sweep = x.sweep)
  | none => false

/-- The swaps of this boundary take effect; the others have now reached the field (log entry 40). -/
def fieldSwaps (f : Nat) (b : Blk) : Blk :=
  let due := (fieldOf b f).swaps.filter (swapDue b f)
  onField f (fun g => { g with swaps := (g.swaps.filter (fun x => !(due.contains x))).map (fun x => { x with reached := true }) }) (each (fieldSwap f) due b)

/-- A slot whose record or peer entry is not complete at its dispatch (R140, R166): it is counted once in MATLATE. -/
def lateRecord (f : Nat) (r : SlotRec) (b : Blk) : Blk :=
  if recWaits b f r.seq ∨ peerWaits b f r.seq = true then orReg (aF f 0x081) 0x20 (count (aF f 0x085) b) else b

/-- The causes that poison a slot at its dispatch, in order: a mark, no lock, an incomplete peer entry (R132, R140, R482). -/
def dispatchCauses (f : Nat) (r : SlotRec) (marked late : Bool) (b : Blk) : Blk :=
  let b := if marked then notePoisoned f r.slot (firstCause b f r.slot 0) 0 b else b
  let b := if r.nolock then noteCause f r.slot 12 b else b
  if late then noteCause f r.slot 13 b else b

/-- The slot that closed at the last boundary is assigned its member and takes its poison state; its mark is consumed
(R28, R30, R33, R42, R132, R133, R140, R166, R482). -/
def assignSlot (f : Nat) (r : SlotRec) (b : Blk) : Blk :=
  let g := fieldOf b f
  let n := memberCount b f
  let k := (members b f)[g.pos % max 1 n]?
  let b := if suspCovers g r.seq then suspectSlot f r.slot b else b
  let marked := decide (0 < kget 0 (fieldOf b f).marks r.slot.toNat)
  let late := k.isSome && peerWaits b f r.seq
  let bad := late || (k.isSome && recWaits b f r.seq)
  let b := dispatchCauses f r marked late (if k.isSome then lateRecord f r b else b)
  let b := onField f (fun g => { g with
    marks := kdel g.marks r.slot.toNat, cause := kdel g.cause r.slot.toNat, pos := (g.pos + 1) % max 1 n,
    caused := (match g.cause.find? (fun e => e.1 == r.slot.toNat) with
      | some e => kput g.caused r.slot.toNat e.2
      | none => kdel g.caused r.slot.toNat) }) b
  let b := onRec f r.seq (fun r => { r with member := k, n := n, pois := r.pois || r.nolock || marked || bad }) b
  match k with
  | some _ => b
  | none => count (aF f 0x00C) (settleSlot f r (safedec b f r) 3 b)

/-- The slot that reaches s + A + 2 at this boundary. -/
def assignDue (f : Nat) (b : Blk) : Blk :=
  each (fun r b => if r.closed ∧ r.member.isNone ∧ r.settled.isNone ∧ r.seq + alignA b + 2 ≤ (fieldOf b f).cur.seq then
    assignSlot f r b else b) (fieldOf b f).pipe b

/-- The open slot closes at this boundary: its boundary s + A + 1 has come (R150). -/
def closes (b : Blk) (f : Nat) : Bool :=
  (openRec b f).any (fun r => decide (r.seq + alignA b + 1 ≤ (fieldOf b f).cur.seq))

def closeDue (f : Nat) (b : Blk) : Blk := if closes b f then closeSlot f b else b

/-- Release the slot of this boundary, from slot k on (R131, R578). -/
def releaseDue (f : Nat) (b : Blk) : Blk :=
  let g := fieldOf b f
  if g.fenEff ∧ alignA b ≤ sinceK0 g then
    match tagBack g (alignA b) with
    | some t => releaseSlot f t b
    | none => b
  else b

/-- The leaky bucket leaks every PER × 256 boundaries (R414). -/
def leakDue (b : Blk) (f : Nat) : Bool :=
  let per := fld (reg b (aF f 0x1C6)) 8 6
  eccwb b && decide (per ≠ 0) && decide (per * 256 ≤ (fieldOf b f).leak + 1)

def leakTick (f : Nat) (b : Blk) : Blk :=
  if leakDue b f then onField f (fun g => { g with leak := 0, bucket := g.bucket - 1 }) b
  else onField f (fun g => { g with leak := g.leak + 1 }) b

/-- What field f does as it processes a boundary (R25): settling comes before dispatch (R37), the swaps before the release
they govern (R143). -/
def fieldBoundary (f : Nat) (t : Tag) (b : Blk) : Blk :=
  let b := overrunIfLate f b
  let b := onField f (fun g => { g with cur := t, tags := (t :: g.tags).take 80, noted := [], lastB := [] }) b
  let b := raiseDue f t.seq b
  let b := fenChange f t b
  let b := fieldSwaps f b
  let b := assignDue f b
  let closed := closes b f
  let b := closeDue f b
  let b := emitDue f b
  let b := releaseDue f b
  let b := writerRun f closed b
  let b := releaseTimers f t (timersBoundary f t b)
  let b := ledgerBoundary f t.sweepStart b
  refreshLines f (leakTick f b)

/-- FIELD_SLOT_BOUNDARY: the oldest boundary that waits is processed. -/
def fieldStep (f : Nat) (b : Blk) : Blk :=
  match (fieldOf b f).bq with
  | [] => b
  | t :: r =>
    if clocked b f then fieldBoundary f t (onField f (fun g => { g with bq := r }) b) else b

/-- The boundary that waits first. -/
def nextTag (b : Blk) (f : Nat) : Option Tag := (fieldOf b f).bq.head?

/-- Every field catches up with the boundaries launched. -/
def catchUp (b : Blk) : Blk :=
  each (fun f b => times (fieldStep f) (fieldOf b f).bq.length b) (List.range (nFields b)) b

/-! The DEC port (R36, R51, R517). -/

/-- N: the largest member count among the fields with DECPORT set (R36); none with no such field. -/
def decN (b : Blk) : Option Nat :=
  let fs := (List.range (nFields b)).filter (fun f => powered b f && bit (reg b (aF f 0)) 1)
  if fs.isEmpty then none else some ((fs.map (memberCount b)).foldl max 0)

/-- The DEC edge at the start of the slot whose boundary is `seq`. With no DECPORT set the port carries nothing, and the decisions
that a later setting can still bring to it stay (R51): the longest latency is A + 3 + 8. -/
def decEdge (seq : Nat) (b : Blk) : Blk :=
  match decN b with
  | none => onTb (fun t => { t with
      dec := { valid := false, slot := 0, code := 0, p := false },
      decq := t.decq.filter (fun x => decide (seq < x.seq + alignA b + 11)) }) b
  | some n =>
    let lat := alignA b + 3 + n
    let here := b.tb.decq.filter (fun x => decide (x.seq + lat = seq) && bit (reg b (aF x.f 0)) 1)
    let rest := b.tb.decq.filter (fun x => decide (seq < x.seq + lat))
    let o : DecOut := match here with
      | [] => { valid := false, slot := 0, code := 0, p := false }
      | x :: _ => { valid := true, slot := x.slot, code := here.foldl (fun c y => c ||| y.code) 0, p := here.any (fun y => y.subst) }
    onTb (fun t => { t with dec := o, decq := rest }) b

/-! The block's slot boundary (R58). -/

/-- The fabric's swap of the route tables (R124). -/
def fabricSwap (t : Tag) (b : Blk) : Blk :=
  match b.fabSwap with
  | some x =>
    if x.slot = t.slot ∧ x.sweep = lo14 t.sweep then setReg (aB 0x181) (reg b (aB 0x181) ^^^ 1) { b with fabSwap := none }
    else { b with fabSwap := some { x with reached := true } }
  | none => b

/-- The fabric at a boundary (R103, R104, R124). -/
def fabricBoundary (t : Tag) (b : Blk) : Blk :=
  let b := fabricSwap t b
  if t.sweepStart then
    let b := statusSendEff b
    let b := { b with statCnt := if (reg b (aB 0x18E)).toNat = 0 then 0 else b.statCnt + 1 }
    if bit (reg b (aB 0x180)) 2 ∧ fld t.sweep 0 8 = 0 then sendTime b else b
  else b

/-- SLOT_BOUNDARY: the fields finish the boundaries before it, the timebase advances, and the islands outside the fields
process the new boundary. -/
def slotBoundaryEff (mark : Bool) (b : Blk) : Blk :=
  let b := each (fun f b => overrunIfLate f b) (List.range (nFields b)) (catchUp b)
  let x := tbEdge mark b
  match x.2 with
  | none =>
    each (fun f b => writerRun f false b) (List.range (nFields b))
      (onTb (fun t => { t with dec := { valid := false, slot := 0, code := 0, p := false } }) x.1)
  | some t =>
    let b := fabricBoundary t (decEdge t.seq x.1)
    traceMove (each (fun l b => linkBoundary l b) (List.range (nLinks b)) b)

/-- The sweep that the coming boundary carries. -/
def comingSweep (b : Blk) : BitVec 28 :=
  if comingSlot b = 0 then (if bit (reg b (aB 0x040)) 0 then regPair b (aB 0x04A) else b.tb.sweep + 1) else b.tb.sweep

/-! The commands of boundaries. -/

def execSlotBoundary (mark : Bool) (s : State) := run (slotBoundaryEff mark) s
/-- R64: a marker is a SWEEP_MARK sample of 1 after one of 0. -/
def execMarker (s : State) := run (fun b => if b.tb.lastMark then b else slotBoundaryEff true b) s
def execNobclkSet (s : State) := run nobclkSets s
def execCapture (k : Nat) (rising : Bool) (s : State) := run (captureEdge k rising) s
def execFieldSlotBoundary (f : Nat) (s : State) := run (fieldStep f) s
def execDispatch (f : Nat) (s : State) := run (dispatchEff f) s
def execOverrun (f : Nat) (s : State) := run (overrunIfLate f) s

/-- R28: the waiting boundary is the one at which FEN takes effect. -/
def execFenTakeEffect (f : Nat) (s : State) :=
  run (fun b => if !((fieldOf b f).fenEff) && fenBit b f && (fieldOf b f).pipe.isEmpty && decide (levelOf b f = 8) then fieldStep f b
    else b) s
/-- R578. -/
def execFenClearTakeEffect (f : Nat) (s : State) :=
  run (fun b => if (fieldOf b f).fenDrop then fieldStep f b else b) s

/-- A swap of a kind takes effect at the boundary that waits (R464). -/
def swapWaits (b : Blk) (f kind : Nat) : Bool :=
  match nextTag b f with
  | some t =>
    let g := fieldOf b f
    let h : Field := { g with cur := t, tags := (t :: g.tags).take 80 }
    g.swaps.any (fun x => decide (x.kind = kind) && (match tagBack h (alignA b) with
      | some u => decide (u.slot = x.slot) && decide (lo14 u.sweep = x.sweep)
      | none => false))
  | none => false

def execChannelMapSwap (f : Nat) (s : State) := run (fun b => if swapWaits b f 0 then fieldStep f b else b) s
def execWindowTableSwap (f : Nat) (s : State) := run (fun b => if swapWaits b f 1 then fieldStep f b else b) s
def execSafedecSwap (f : Nat) (s : State) := run (fun b => if swapWaits b f 3 then fieldStep f b else b) s
def execGainPageSwap (f : Nat) (s : State) := run (fun b => if swapWaits b f 4 then fieldStep f b else b) s

/-- R124: the coming boundary is slot k. -/
def execRouteTableSwap (s : State) :=
  run (fun b => match b.fabSwap with
    | some x => if counting b ∧ x.slot.toNat = comingSlot b ∧ x.sweep = lo14 (comingSweep b) then slotBoundaryEff false b else b
    | none => b) s

/-- R57: the coming boundary starts a sweep, and TB.SPS holds a value not yet effective. -/
def execSpsTakeEffect (s : State) :=
  run (fun b => if counting b ∧ comingSlot b = 0 ∧ (reg b (aB 0x042)).toNat ≠ b.tb.spsEff then slotBoundaryEff false b else b) s
/-- R59. -/
def execSweepLoad (s : State) :=
  run (fun b => if counting b ∧ comingSlot b = 0 ∧ bit (reg b (aB 0x040)) 0 = true then slotBoundaryEff false b else b) s
/-- R60. -/
def execRuntimeClear (s : State) :=
  run (fun b => if counting b ∧ bit (reg b (aB 0x040)) 1 = true then slotBoundaryEff false b else b) s
/-- R484. -/
def execDrainEntry (s : State) := run (fun b => if counting b ∧ b.md.drainWait = true then slotBoundaryEff false b else b) s

/-- R82: the scheduled boundary, which the masked fields process. -/
def execGstartRelease (s : State) :=
  run (fun b => match b.tb.gwait with
    | some (n, fm, _) =>
      if counting b ∧ n ≤ 1 then
        each (fun f b => if bit fm f then fieldStep f b else b) (List.range (nFields b)) (slotBoundaryEff false b)
      else b
    | none => b) s

/-- R381: the waiting boundary takes the timer to 0. -/
def execDeadlineExpire (e n : Nat) (s : State) :=
  run (fun b =>
    if 1 ≤ n ∧ deadlineRuns b e n = true ∧ (reg b (aE e (0x22 + n))).toNat ≤ 1 ∧ nth true (engOf b e).dlDone (n - 1) = false then
      fieldStep (fldOf e) b
    else b) s

/-- R414. -/
def execBucketLeak (f : Nat) (s : State) := run (fun b => if leakDue b f then fieldStep f b else b) s

/-- A tick of timer k of field f is due: with SRC = 0 at the boundary that waits; with SRC = 1 its source runs on its own
(R76, R77). -/
def tickEff (f k : Nat) (b : Blk) : Blk :=
  if timerRuns b f k = false then b
  else if bit (tmrCtl b f k) 2 then timerTick f k b
  else if (reg b (aF f (0x141 + 4 * k))).toNat ≤ nth 0 (fieldOf b f).pre k then fieldStep f b
  else b

def execTimerTick (f k : Nat) (s : State) := run (tickEff f k) s
/-- R78: the tick finds the count at PERIOD. -/
def execTimerFire (f k : Nat) (s : State) :=
  run (fun b => if (reg b (aF f (0x142 + 4 * k))).toNat ≤ (reg b (aF f (0x143 + 4 * k))).toNat then tickEff f k b else b) s

/-- R341: a tick of the source's timer takes its age to TIME. -/
def execGeyserAgePending (f src : Nat) (s : State) :=
  run (fun b => match srcLive b f src with
    | some y =>
      let x := srcOf (fieldOf b f) src
      if y.time ≠ 0 ∧ (x.st = .accum ∨ (x.st = .active ∧ 0 < x.r)) ∧ y.time ≤ x.g + 1 then tickEff f y.tsel b else b
    | none => b) s

end Sys2Proof.Machine
end

