-- ==== Sys2Proof/Machine/CtxRegs.lean ====
section
/-! DEFINITION. The context registers of an engine (R181 to R185, R210 to R212, R328, R329), the completion of long operations
into their places (R239, R305), and the joining and separating of twin pairs (R317 to R320). -/

namespace Sys2Proof.Machine

/-! Widths (R321, R328). -/

/-- A value at the width of a single engine (14 bits) or of a pair (28). -/
def wid (tw : Bool) (v : BitVec 28) : BitVec 28 := if tw then v else v &&& 0x3FFF

/-- The place of a register in a list, one at or above the occupancy reading 0x0000 with P = 1 (R181). -/
def cellAt (l : List SCell) (i : Nat) : BitVec 28 × Bool :=
  match l[i]? with
  | some c => (c.v, c.p)
  | none => (0, true)

/-- DEPTH and CSTATE as they read (R181). -/
def depthCell (y : Ctx) : BitVec 28 := BitVec.ofNat 28 (y.data.length % 32 + 32 * (y.ret.length % 16))
def cstateCell (c : Nat) (y : Ctx) : BitVec 28 :=
  BitVec.ofNat 28 (y.state % 4 + 4 * b2n (y.spois && decide (c = 0)) + 8 * b2n y.mip)

/-- PS as it reads: FE has K = 1 (R183). -/
def psOf (c : Nat) (y : Ctx) : BitVec 14 := if c = 4 then y.ps ||| 0x2000 else y.ps

/-- Context register i of context c (R181, R184). -/
def ctxReg (b : Blk) (e c i : Nat) : BitVec 28 × Bool :=
  let y := ctxOf b e c
  if 2 ≤ i ∧ i ≤ 7 ∧ c = 4 then (0, false)
  else if i = 0 then (y.pc, false)
  else if i = 1 then ((psOf c y).setWidth 28, bit y.ps 5)
  else if i = 2 then (y.dsp, false)
  else if i = 3 then (y.dbase, false)
  else if i = 4 then (y.dlim, false)
  else if i = 5 then (y.rsp, false)
  else if i = 6 then (y.rbase, false)
  else if i = 7 then (y.rlim, false)
  else if i < 12 then (nth 0 y.views (i - 8), false)
  else if i = 12 then (y.fstatus.setWidth 28, false)
  else if i = 13 then (depthCell y, false)
  else if i = 14 then (cstateCell c y, false)
  else if i = 15 then (y.mprog, false)
  else if i < 32 then cellAt y.data (i - 16)
  else if i < 40 then cellAt y.ret (i - 32)
  else if i < 44 then cellAt (engOf b e).fst (i - 40)
  else if i = 44 then (BitVec.ofNat 28 (engOf b e).fst.length, false)
  else (0, false)

/-- A stack cut, or lengthened below with 0x0000 and P = 1, to n cells (R181). -/
def resize (l : List SCell) (n : Nat) : List SCell := l.take n ++ List.replicate (n - l.length) emptyPlace

/-- Replace cell i of a stack; nothing at or above its occupancy (R181). -/
def setCell (l : List SCell) (i : Nat) (v : BitVec 28) (p : Bool) : List SCell := upd (fun _ => scP v p) l i

/-- PS with a new value: bit 0 is reserved, and K of FE stays (R183, R185). -/
def putPs (c : Nat) (v : BitVec 28) (y : Ctx) : Ctx :=
  { y with ps := if c = 4 then (lo14 v &&& 0x3FFE) ||| 0x2000 else lo14 v &&& 0x3FFE }

/-- A value written into a context's own record at index i (R181). STATE 3 is reserved: such a write leaves STATE
alone (log entry 31). -/
def putCtx (c i : Nat) (v : BitVec 28) (p : Bool) (y : Ctx) : Ctx :=
  if 2 ≤ i ∧ i ≤ 7 ∧ c = 4 then y
  else if i = 0 then { y with pc := v, sylb := false }
  else if i = 1 then putPs c v y
  else if i = 2 then { y with dsp := v }
  else if i = 3 then { y with dbase := v }
  else if i = 4 then { y with dlim := v }
  else if i = 5 then { y with rsp := v }
  else if i = 6 then { y with rbase := v }
  else if i = 7 then { y with rlim := v }
  else if i < 12 then { y with views := upd (fun _ => v) y.views (i - 8) }
  else if i = 12 then { y with fstatus := lo14 v &&& 0x3FF }
  else if i = 13 then
    { y with data := resize y.data (min (capData c) (fld v 0 5)), ret := resize y.ret (min (capRet c) (fld v 5 4)) }
  else if i = 14 then { y with state := if fld v 0 2 = 3 then y.state else fld v 0 2 }
  else if i = 15 then { y with mprog := v, mfree := y.mfree || y.mip }
  else if i < 32 then { y with data := setCell y.data (i - 16) v p }
  else if i < 40 then { y with ret := setCell y.ret (i - 32) v p }
  else y

/-- A write of context register i of context c (R181, R212). PS and
CSTATE decide what is deliverable and who sleeps (R343, R349). -/
def writeCtx (e c i : Nat) (v : BitVec 28) (p : Bool) (b : Blk) : Blk :=
  let v := wid (isTwin b e) v
  if i < 40 then refreshLines (fldOf e) (onCtx e c (putCtx c i v p) b)
  else if i < 44 then onEng e (fun x => { x with fst := setCell x.fst (i - 40) v p }) b
  else if i = 44 then onEng e (fun x => { x with fst := resize x.fst (min 4 (fld v 0 14)) }) b
  else b

/-- Context c of engine e is executing (R212), an instruction under way included (log entry 117). -/
def executing (b : Blk) (e c : Nat) : Bool :=
  goesOn b e && !((engOf b e).halted) && !((engOf b e).mchk) && decide ((engOf b e).run = some c)

/-- The registers that a write may not touch while their context executes (R212). -/
def busyIdx (i : Nat) : Bool :=
  decide (i = 0) || decide (i = 2) || decide (i = 5) || (decide (13 ≤ i) && decide (i < 40))

/-- A halted engine shows the cell and context it will resume at (R538): DBGPC and DBGCTX follow the halted context. -/
def showHalted (e : Nat) (b : Blk) : Blk :=
  if (engOf b e).halted then
    let c := (engOf b e).run.getD 7
    let y := ctxOf b e c
    let b := setReg (aE e 0x32) (if c = 7 then 0 else lo14 y.pc) b
    setReg (aE e 0x33) (putb (putf (reg b (aE e 0x33)) 0 3 c) 3 (decide (c ≠ 7) && y.sylb)) b
  else b

/-- An access to register i of context c waits for long operation o: to DEPTH or a data cell for one with data results there, to the
float stack for a float operation in flight (R212, R305, R307). A flag register does not wait (R267). -/
def lopMeets (c i : Nat) (o : LOp) : Bool :=
  ((decide (i = 13) || (decide (16 ≤ i) && decide (i < 32))) && lopData c o) || (decide (40 ≤ i) && decide (i < 45) && o.float)

/-- A syllable of the engine that reads or writes the register waits for the flags too: of PS and of FSTATUS (R306). -/
def lopReads (c i : Nat) (o : LOp) : Bool :=
  lopMeets c i o || (decide (i = 1) && lopFlags c 0x3FFF o) || (decide (i = 12) && lopOf c o && o.float)

/-- The long operations that an access to a context register waits for have completed; and those that a syllable waits for. -/
def settleFor (e c i : Nat) (b : Blk) : Blk := settleLast (lopMeets c i) e b
def settleReg (e c i : Nat) (b : Blk) : Blk := settleLast (lopReads c i) e b

/-- The writes that waited for the end of the instruction are made (R212). -/
def flushCtx (e : Nat) (b : Blk) : Blk :=
  match (engOf b e).run with
  | some c => each (fun w b => writeCtx e c w.1 w.2.1 w.2.2 b) (engOf b e).ctxq (onEng e (fun x => { x with ctxq := [] }) b)
  | none => b

/-- The host-window access of the syllable is over: used, or given up. Its instruction has reached a boundary or commit point. -/
def clearGot (e : Nat) (b : Blk) : Blk :=
  if (engOf b e).hmNeed = 0 then b else flushCtx e (onEng e (fun x => { x with hmNeed := 0, hmGot := [] }) b)

/-- A write through CTXDATA or CTXWR (R212): within an instruction it waits for the next boundary or commit point. -/
def ctxWrite (e c i : Nat) (v : BitVec 28) (p : Bool) (b : Blk) : Blk :=
  if 4 < c then b
  else if executing b e c && busyIdx i then orReg (aE e 0x01) 0x40 b
  else if executing b e c && decide (0 < (engOf b e).hmNeed) then onEng e (fun x => { x with ctxq := x.ctxq ++ [(i, v, p)] }) b
  else showHalted e (writeCtx e c i v p (settleFor e c i b))

/-! CTXWIN and CTXDATA (R211, R329). -/

def winCtx (b : Blk) (e : Nat) : Nat := fld (reg b (aE e 0x02)) 11 3
def winReg (b : Blk) (e : Nat) : Nat := fld (reg b (aE e 0x02)) 0 6

/-- AINC: REG increments mod 64 (R211). -/
def winStep (e : Nat) (b : Blk) : Blk :=
  let w := reg b (aE e 0x02)
  if bit w 6 then setReg (aE e 0x02) (putf w 0 6 (fld w 0 6 + 1)) b else b

/-- A write of CTXWIN resets the half selector (R329). -/
def winWrite (e : Nat) (v : BitVec 14) (b : Blk) : Blk :=
  plainWrite (aE e 0x02) v (onEng e (fun x => { x with half := none }) b)

/-- What the selected register holds, 0x0000 with P = 1 where CTX is 5 to 7 (R213). -/
def selected (b : Blk) (e : Nat) : BitVec 28 × Bool :=
  if 4 < winCtx b e then (0, true) else ctxReg (settleFor e (winCtx b e) (winReg b e) b) e (winCtx b e) (winReg b e)

/-- What a read of CTXDATA returns. -/
def ctxDataValue (b : Blk) (e : Nat) : BCell :=
  if isTwin b e then
    match (engOf b e).half with
    | some (_, v, p) => { v := hi14 v, p := p }
    | none => { v := lo14 (selected b e).1, p := (selected b e).2 }
  else { v := lo14 (selected b e).1, p := (selected b e).2 }

/-- The side effect of a read of CTXDATA. -/
def ctxDataRead (e : Nat) (b : Blk) : Blk :=
  let b := settleFor e (winCtx b e) (winReg b e) b
  if isTwin b e then
    match (engOf b e).half with
    | some _ => winStep e (onEng e (fun x => { x with half := none }) b)
    | none => onEng e (fun x => { x with half := some (false, (selected b e).1, (selected b e).2) }) b
  else winStep e b

/-- A write of CTXDATA. -/
def ctxDataWrite (e : Nat) (c : BCell) (b : Blk) : Blk :=
  if isTwin b e then
    match (engOf b e).half with
    | some (_, v, p) =>
      winStep e (ctxWrite e (winCtx b e) (winReg b e) (pair (lo14 v) c.v) (p || c.p)
        (onEng e (fun x => { x with half := none }) b))
    | none => onEng e (fun x => { x with half := some (true, c.v.setWidth 28, c.p) }) b
  else winStep e (ctxWrite e (winCtx b e) (winReg b e) (c.v.setWidth 28) c.p b)

/-! Twin pairs (R317 to R319). -/

/-- Engine e is at rest: RUN = 0 and no context running, its stores drained and its long operations complete (R317). -/
def atRest (b : Blk) (e : Nat) : Bool := !(goesOn b e) && (engOf b e).sbuf.isEmpty && (engOf b e).lops.isEmpty

/-- Bit j of JOIN of field f may change (R317). -/
def joinFree (b : Blk) (f j : Nat) : Bool :=
  let e := 8 * f + 2 * j
  atRest b e && (isTwin b e || atRest b (e + 1)) &&
  (!(fenBit b f) || (!(bit (reg b (aF f 0x003)) (2 * j)) && !(bit (reg b (aF f 0x003)) (2 * j + 1))))

/-- A context of a joined pair, and of an engine separated from one (R318, R319): its stacks are empty (R192). -/
def Ctx.joined (y : Ctx) : Ctx :=
  { emptyStacks y with state := 0, mip := false, mprog := 0, mfree := false, rmOld := none, sylb := false }
def Ctx.narrow (y : Ctx) : Ctx :=
  let w (v : BitVec 28) : BitVec 28 := v &&& 0x3FFF
  Ctx.joined { y with
    pc := w y.pc, dbase := w y.dbase, dlim := w y.dlim, rbase := w y.rbase, rlim := w y.rlim, views := y.views.map w }

/-- The cold values of engine e's registers, latches and contexts. -/
def engCold (e : Nat) (b : Blk) : Blk :=
  hmForget e (onEng e (fun _ => Engine.cold) { b with
    regs := kclear b.regs (aE e 0) (aE (e + 1) 0), latch := kclear b.latch (128 * aE e 0) (128 * aE (e + 1) 0) })

/-- The even engine after a join or a separation: no float owner, no sequence (R318, R319). -/
def pairReset (e : Nat) (g : Ctx → Ctx) (b : Blk) : Blk :=
  let b := hmForget e <| onEng e (fun x => { x with
    ctxs := mapAll g x.ctxs, fst := [], locks := [], pairB := false, hmNeed := 0, hmGot := [], ctxq := [], entry := none, coast := false,
    owed := [], run := none, slot := none, half := none, pf := [] }) b
  setReg (aE e 0x00) (putf (reg b (aE e 0x00)) 8 3 7) b

/-- Change bit j of JOIN to `on`, or refuse with TWR (R317 to R319). -/
def joinBit (f j : Nat) (on : Bool) (b : Blk) : Blk :=
  let e := 8 * f + 2 * j
  if bit (twinmap b f) j = on then b
  else if joinFree b f j then
    let b := setReg (aF f 0x002) (putb (twinmap b f) j on) b
    let b := engCold (e + 1) b
    refreshLines f (pairReset e (if on then Ctx.joined else Ctx.narrow) b)
  else orReg (aF f 0x002) 0x10 b

/-- A write of TWINMAP (R317, R320). -/
def twinWrite (f : Nat) (v : BitVec 14) (b : Blk) : Blk :=
  let b := clrReg (aF f 0x002) (v &&& 0x10) b
  each (fun j b => joinBit f j (bit v j) b) (List.range 4) b

end Sys2Proof.Machine
end

