-- ==== Sys2Proof/Machine/Halt.lean ====
section
/-! DEFINITION. Debug control of an engine (R536 to R544): halting, releasing, stepping, and the halt packets. -/

namespace Sys2Proof.Machine

/-- A halt or release packet, where DBG.TRCCTL.HEV asks for them (R536, R549). -/
def haltPacket (e idx : Nat) (b : Blk) : Blk :=
  if bit (reg b (aB 0x305)) 2 then
    traceField (fldOf e) (fieldPacket b 3 (fldOf e) (locOf e) idx (clean (reg b (aE e 0x32)))) b
  else b

/-- Engine e halts, for a cause (R536, R538, R554). -/
def haltNow (e cause : Nat) (b : Blk) : Blk :=
  let b := onEng e (fun x => { x with halted := true, haltReq := none, stepping := false }) b
  let b := setReg (aE e 0x31) (putf (reg b (aE e 0x31)) 8 4 cause) b
  haltPacket e cause (raise (fldOf e) 486 (showHalted e b))

/-- A request to halt engine e: at once with RUN = 0 or MCHK = 1, else at its next boundary (R536). -/
def haltAsk (e cause : Nat) (b : Blk) : Blk :=
  if (engOf b e).halted then b
  else if goesOn b e = false ∨ (engOf b e).mchk = true then haltNow e cause b
  else onEng e (fun x => { x with haltReq := some (x.haltReq.getD cause) }) b

/-- ENGINE_HALT's effect: the request is met at a boundary, unless a locked sequence is held (R231, R536). A paired syllable B,
a host-window access and an event entry under way come before the boundary. -/
def haltEff (e : Nat) (b : Blk) : Blk :=
  match haltDue b e with
  | some c => if lockHeld b e ∨ (engOf b e).pairB = true ∨ 0 < (engOf b e).hmNeed ∨ (engOf b e).entry.isSome = true then b else haltNow e c b
  | none => b

/-- An expiry that the halt held back happens at release (R541). -/
def heldExpiry (e n : Nat) (b : Blk) : Blk :=
  if nth false (engOf b e).dlHeld (n - 1) then
    raise (fldOf e) 459 (orReg (aE e 0x27) (1 <<< (5 + n)) (onEng e (fun x => { x with dlHeld := upd (fun _ => false) x.dlHeld (n - 1) }) b))
  else b

/-- Engine e is released, or a request not yet met is withdrawn (R538, R541). -/
def releaseEng (e : Nat) (b : Blk) : Blk :=
  let was := (engOf b e).halted
  let b := onEng e (fun x => { x with halted := false, haltReq := none, stepping := false, skipCmp := x.skipCmp || x.halted }) b
  if was then haltPacket e 16 (clrReg (aE e 0x31) 0x10 (heldExpiry e 3 (heldExpiry e 2 (heldExpiry e 1 b)))) else b

/-- STEP (R538, R539): ignored unless the engine is halted; with RUN = 0 or MCHK = 1 nothing can run and the step ends. -/
def stepEng (e : Nat) (b : Blk) : Blk :=
  if (engOf b e).halted then
    if runBit b e = false ∨ (engOf b e).mchk = true then haltNow e 2 b
    else onEng e (fun x => { x with stepping := true, skipCmp := true }) b
  else b

/-- FORCE (R537): a held sequence breaks, and the engine halts at its next boundary. -/
def forceEng (e : Nat) (b : Blk) : Blk :=
  if (engOf b e).halted then b
  else
    let b := if lockHeld b e then orReg (aE e 0x31) 4 (breakLock e b) else b
    haltAsk e 1 b

/-- The comparators an engine has, as DBGCTL.IACEN bits (R543). -/
def iacMask (b : Blk) : BitVec 14 := BitVec.ofNat 14 ((2 ^ (b.cfg.ncomp + 1) - 1) * 64 + 0x3F)

/-- A write of DBGCTL (R536 to R539, R554). STEP on a halted engine steps it, whatever HALT the write carries (log entry 32). -/
def dbgctlWrite (e : Nat) (v : BitVec 14) (b : Blk) : Blk :=
  let b := plainWrite (aE e 0x30) (v &&& iacMask b) b
  if bit v 2 ∧ (engOf b e).halted = true then stepEng e b
  else
    let b := if bit v 1 then forceEng e b else b
    if bit v 0 then haltAsk e 1 b else if bit v 1 then b else releaseEng e b

/-- A write of DBGPC, and of DBGCTX: their resume fields are writable only while the engine is halted (R538, R554). -/
def dbgpcWrite (e : Nat) (v : BitVec 14) (b : Blk) : Blk :=
  if (engOf b e).halted then
    let b := match (engOf b e).run with
      | some c => onCtx e c (fun y => { y with pc := pair v (hi14 y.pc) }) b
      | none => b
    setReg (aE e 0x32) v b
  else b

def dbgctxWrite (e : Nat) (v : BitVec 14) (b : Blk) : Blk :=
  let old := reg b (aE e 0x33)
  let b := setReg (aE e 0x33) ((v &&& 0x3E00) ||| (old &&& 0x000F)) b
  if (engOf b e).halted then
    let b := match (engOf b e).run with
      | some c => onCtx e c (fun y => { y with sylb := bit v 3 }) b
      | none => b
    setReg (aE e 0x33) (putb (reg b (aE e 0x33)) 3 (bit v 3)) b
  else b

/-- HALTALL acts on every engine of the fields in FMASK (R542); the odd engine of a pair ignores it (R330). -/
def haltAll (v : BitVec 14) (b : Blk) : Blk :=
  each (fun e b =>
    if bit v (fldOf e) ∧ clocked b (fldOf e) = true ∧ isOdd b e = false then
      if bit v 13 then releaseEng e (clrReg (aE e 0x30) 1 b) else haltAsk e 6 (orReg (aE e 0x30) 1 b)
    else b) (List.range (nEngines b)) b

/-- ENGINE_HALT: the engine halts at an instruction boundary (R536). -/
def execEngineHalt (e : Nat) (s : State) := run (haltEff e) s

end Sys2Proof.Machine
end

