-- ==== Sys2Proof/Machine/Bus.lean ====
section
/-! DEFINITION. What registers hold as they are read (R14 to R19 and the field tables), and accesses to any block address by any
master: permissions, poison, latches and side effects. -/

namespace Sys2Proof.Machine

/-! Masters. -/

/-- The number of a master's latches (R68). -/
def masterIdx : Master → Nat
  | .engine e => e
  | .host => 64
  | .steward => 65
  | .linkDma => 66
  | .debug => 67

/-- The master code at field f's memory (R399, R561): another field's engine comes through port B as the steward. -/
def masterCode (f : Nat) : Master → Nat
  | .engine e => if fldOf e = f then locOf e else 9
  | .host => 9
  | .steward => 9
  | .linkDma => 12
  | .debug => 10

/-- The debug master at FULL, or another master while DBG.CTL.LOCAL is 1 (R553). -/
def mayDebug (b : Blk) : Master → Bool
  | .debug => decide (b.auth.level = 2)
  | _ => bit (reg b (aB 0x300)) 2

/-- Reads by this master act (R19, R535). -/
def readsAct (b : Blk) : Master → Bool
  | .debug => bit (reg b (aB 0x300)) 3 && decide (b.auth.level = 2)
  | _ => true

/-! Values. -/

/-- The 28-bit value whose LO register stands at address a (R68, R213, R366, R394). -/
def wideAt (b : Blk) (a : Nat) : Option (BitVec 28) :=
  if a = aB 0x046 then some b.tb.sweep
  else if a = aB 0x048 then some b.tb.runtime
  else if a = aB 0x1C5 then some (BitVec.ofNat 28 b.md.sleep)
  else if 0x0F10000 ≤ a ∧ a < 0x0F18000 then
    let g := fieldOf b ((a - 0x0F10000) / 0x1000)
    let off := a % 0x1000
    if off = 0x180 then some (BitVec.ofInt 28 g.bal)
    else if off = 0x18A then some (BitVec.ofNat 28 (essentialEu b ((a - 0x0F10000) / 0x1000)))
    else if off = 0x18C then some (BitVec.ofNat 28 (min (2 ^ 28 - 1) g.rate))
    else none
  else if 0x0F20000 ≤ a ∧ a < 0x0F21000 ∧ a % 0x40 = 0x0E then some (engOf b ((a - 0x0F20000) / 0x40)).cyc
  else none

/-- The high-cell latch of a master for the HI register at a (R68). -/
def latchOf (b : Blk) (m : Master) (a : Nat) : BitVec 14 := kget 0 b.latch (128 * a + masterIdx m)
def setLatch (m : Master) (a : Nat) (v : BitVec 14) (b : Blk) : Blk :=
  { b with latch := kset 0 b.latch (128 * a + masterIdx m) v }

/-- BLK.CONFIG (R7). -/
def configReg (b : Blk) : BitVec 14 :=
  BitVec.ofNat 14 (Config.step.toNat * 512 + b2n (eccwb b) * 256 + b.cfg.ncomp * 32 + b.cfg.size * 8 + (nFields b - 1))

/-- Some present field has bit i of register off set; a field without power shows none (R507). -/
def anyField (b : Blk) (off i : Nat) : Bool := (List.range (nFields b)).any (fun f => powered b f && bit (reg b (aF f off)) i)

/-- BLK.IRQSTAT (R522). -/
def irqStat (b : Blk) : BitVec 14 :=
  BitVec.ofNat 14 (fld (reg b (aB 0x019)) 0 4 * 1024 + b2n (bit (reg b (aB 0x0C1)) 0) * 512
    + b2n (bit (reg b (aB 0x01B)) 0) * 256 + b2n (anyField b 0x1C1 5) * 128 + b2n (anyField b 0x1C1 3) * 64
    + b2n (anyField b 0x001 4) * 32 + b2n (bit (reg b (aB 0x041)) 2) * 16 + b2n (decide (modeOf b = 11)) * 8
    + b2n (bit (reg b (aB 0x141)) 3) * 4 + b2n (bit (reg b (aB 0x012)) 13) * 2 + b2n (!(b.stw.cmdout.isEmpty)))

/-- The output HOST_IRQ[j] (R505, R521): 0 while PORESET_N is asserted, else 1 while an enabled bit of IRQSTAT is 1. -/
def hostIrq (b : Blk) (j : Nat) : Bool := !b.md.off && decide (irqStat b &&& reg b (aB (0x01C + j)) ≠ 0)

/-- DBG.AUTH (R553). -/
def authReg (b : Blk) : BitVec 14 :=
  BitVec.ofNat 14 (b.auth.level * 4096 + b2n b.auth.nokey * 2048 + b2n b.auth.lockout * 1024 + b2n b.auth.barred * 512
    + b.auth.fails)

/-- AON.WAKESTAT (R390, R396): BUSY from the request of a wake until the ramp of the woken fields ends. -/
def wakeStat (b : Blk) : BitVec 14 :=
  let w := reg b (aB 0x1C9)
  putb w 8 (b.md.wakeReq || bit w 8)

/-- A match register (R438, R444). -/
def matchA (b : Blk) (j : Nat) : BitVec 14 :=
  match b.mc.patch.mregs[j]? with
  | some (en, a, _) => BitVec.ofNat 14 (b2n en * 8192 + a)
  | none => 0
def matchB (b : Blk) (j : Nat) : BitVec 14 :=
  match b.mc.patch.mregs[j]? with
  | some (_, _, p) => BitVec.ofNat 14 p
  | none => 0

/-- What a block register reads as, for master m (R562). -/
def blkValue (b : Blk) (m : Master) (off : Nat) : BCell :=
  let r := reg b (aB off)
  if off = 0x001 then cleanN (modeReqRead b)
  else if off = 0x002 then clean (configReg b)
  else if off = 0x003 then clean (putb r 2 (modePend b))
  else if off = 0x007 then clean (r &&& BitVec.ofNat 14 (2 ^ nFields b - 1))
  else if off = 0x008 then clean (fpwrStat b)
  else if off = 0x011 then (b.stw.cmdout.head?).getD absentCell
  else if off = 0x012 then clean (putf r 0 9 (256 - b.stw.cmdin.length))
  else if off = 0x014 then cleanN b.stw.cmdout.length
  else if off = 0x018 then clean (irqStat b)
  else if off = 0x045 then clean b.tb.slot
  else if off = 0x047 ∨ off = 0x049 ∨ off = 0x1C6 then clean (latchOf b m (aB off))
  else if off = 0x050 then clean (b2c b.tb.gwait.isSome)
  else if off = 0x0C1 then clean (putb r 4 (ramping b))
  else if 0x0D8 ≤ off ∧ off < 0x0E0 ∧ nFields b ≤ off - 0x0D8 then clean 0
  else if off = 0x141 then clean (putf r 0 3 b.stw.defer.length)
  else if off = 0x146 then clean Config.version
  else if off = 0x181 then clean (putb r 1 b.fabSwap.isSome)
  else if off = 0x1C9 then clean (wakeStat b)
  else if off = 0x205 then clean (putb r 13 b.mc.busy)
  else if off = 0x207 then cleanN b.mc.stage.length
  else if off = 0x20A then clean Config.keyId
  else if off = 0x20B then clean Config.romId
  else if 0x220 ≤ off ∧ off < 0x230 then clean (matchA b (off - 0x220))
  else if 0x230 ≤ off ∧ off < 0x240 then clean (matchB b (off - 0x230))
  else if off = 0x301 then clean (authReg b)
  else if off = 0x306 then clean (putf r 0 7 b.trace.q.length)
  else clean r

/-- EVQSTAT and EVQAGE (R365). -/
def evqStat (b : Blk) (f : Nat) : BitVec 14 :=
  let x := srcOf (fieldOf b f) (fld (reg b (aF f 0x107)) 0 9)
  let st := match x.st with
    | .idle => 0
    | .accum => 1
    | .pending => 2
    | .active => 3
  BitVec.ofNat 14 (st * 4096 + b2n x.repend * 2048 + x.claimer * 256 + x.r)
def evqAge (b : Blk) (f : Nat) : BitVec 14 :=
  BitVec.ofNat 14 (srcOf (fieldOf b f) (fld (reg b (aF f 0x107)) 0 9)).g

/-- MAPSTAT as it reads (R129, R134, R143). -/
def mapStat (b : Blk) (f : Nat) : BitVec 14 :=
  let g := fieldOf b f
  putb (putb (putb (reg b (aF f 0x041)) 8 (decide (b.tb.spsEff < alignA b + 3))) 4
    (g.susp.any (fun x => x.2.opened.isSome))) 3 (g.swaps.any (fun x => decide (x.kind = 0) || decide (x.kind = 4)))

/-- What a field register reads as (R563). -/
def fieldValue (b : Blk) (m : Master) (f off : Nat) : BCell :=
  let g := fieldOf b f
  let r := reg b (aF f off)
  if off = 0x001 then clean (fstatRead b f)
  else if off = 0x004 then clean (rotposRead b f)
  else if off = 0x041 then clean (mapStat b f)
  else if off = 0x042 then cleanN (alignA b)
  else if off = 0x081 then clean (putb r 1 (g.swaps.any (fun x => decide (x.kind = 1))))
  else if off = 0x082 then cleanN g.ridx
  else if off = 0x102 then clean (putf r 0 8 (sumN ((List.range 8).map (fun k => 2 ^ k * b2n (nth false g.lines k)))))
  else if off = 0x108 then clean (evqStat b f)
  else if off = 0x109 then clean (evqAge b f)
  else if 0x110 ≤ off ∧ off < 0x118 then clean (evPeek b f (off - 0x110))
  else if off = 0x181 ∨ off = 0x18B ∨ off = 0x18D then clean (latchOf b m (aF f off))
  else if off = 0x18F then clean (putb (putb r 4 g.esusp) 1 (decide (g.bal < 0)))
  else if off = 0x190 then cleanN (g.code * 16 + g.step)
  else if off = 0x1C1 then clean (putb (putb r 7 g.clearing) 6 (decide (g.sinter.phase ≠ 0)))
  else if off = 0x1C5 then cleanN (g.sinter.phase * 4096 + g.sinter.block)
  else if off = 0x1C6 then (if eccwb b then clean r else clean 0)
  else if off = 0x1C7 then (if eccwb b then cleanN g.bucket else clean 0)
  else if off = 0x260 then clean (putf r 4 2 (b2n (nth none g.dwl 0).isSome + 2 * b2n (nth none g.dwl 1).isSome))
  else if off = 0x2A3 then clean (putf r 0 4 g.stimq.length)
  else clean r

/-- E.MPROG (R209). -/
def mprogReg (b : Blk) (e : Nat) : BitVec 28 :=
  let c := runCtx b e
  let c := if c = 4 then fld (reg b (aE e 0x04)) 10 3 else c
  if c < 4 then (ctxOf b e c).mprog else 0

/-- ESTAT (R213), and as the odd engine of a pair shows it (R330). -/
def estatReg (b : Blk) (e : Nat) : BitVec 14 :=
  let x := engOf b e
  let idle := x.ctxs.1.all (fun y => decide (y.state ≠ 1))
  putf (putb (putb (putb (reg b (aE e 0x01)) 12 x.mchk) 11 x.halted) 10 idle) 7 3 (runCtx b e)

/-- SCHED (R368, R395). -/
def schedReg (b : Blk) (e : Nat) : BitVec 14 :=
  putf (putb (reg b (aE e 0x20)) 6 (!(isMember b e) && starved b e 0)) 7 3
    (b2n (starved b e 1) + 2 * b2n (starved b e 2) + 4 * b2n (starved b e 3))

/-- What a register of engine e holds at full width (R213, R328, R395, R554); the odd engine of a pair shows SLAVED alone
(R330). -/
def engValue (b : Blk) (m : Master) (e off : Nat) : BitVec 28 × Bool :=
  let x := engOf b e
  let r := reg b (aE e off)
  let n (v : BitVec 14) : BitVec 28 × Bool := (v.setWidth 28, false)
  if isOdd b e then (if off = 0x01 then (0x2000, false) else (0, false))
  else if off = 0x01 then n (estatReg b e)
  else if off = 0x03 then ((ctxDataValue b e).v.setWidth 28, (ctxDataValue b e).p)
  else if off = 0x05 then (x.tpc, false)
  else if off = 0x06 then n x.tps
  else if off = 0x07 then (x.tinfo, false)
  else if off = 0x0B then (mprogReg b e, false)
  else if off = 0x0D then (x.dfpc, false)
  else if off = 0x0E then n (lo14 x.cyc)
  else if off = 0x0F then n (latchOf b m (aE e off))
  else if off = 0x15 then (BitVec.ofNat 28 (fldOf e * 64 + e), false)
  else if off = 0x20 then n (schedReg b e)
  else if off = 0x27 then
    n (putf r 3 3 (b2n (nth false x.prom 0) + 2 * b2n (nth false x.prom 1) + 4 * b2n (nth false x.prom 2)))
  else if off = 0x29 then n (putf r 0 12 (nth 0 x.last (fld r 12 2)))
  else if off = 0x31 then n (putb r 3 (x.haltReq.isSome && lockHeld b e))
  else if 0x34 ≤ off ∧ off < 0x3C ∧ b.cfg.ncomp < off - 0x34 then (0, false)
  else n r

/-- The islands that answer at a register address: a powered, clocked field, or a present link (R6, R494, R534, R559). -/
def regHere (b : Blk) (a : Nat) : Bool :=
  if a < 0x0F00000 then false
  else if a < 0x0F01000 then true
  else if a < 0x0F10000 then false
  else if a < 0x0F18000 then clocked b ((a - 0x0F10000) / 0x1000)
  else if a < 0x0F20000 then false
  else if a < 0x0F21000 then clocked b ((a - 0x0F20000) / 0x200)
  else if a < 0x0F30000 then false
  else if a < 0x0F30600 then decide ((a - 0x0F30000) / 0x10 < nLinks b)
  else false

/-- What the register at a reads as for master m; 0x0000 with P = 1 where nothing answers (R6, R494, R558). -/
def regValue (b : Blk) (m : Master) (a : Nat) : BCell :=
  if regHere b a = false then absentCell
  else
    match wideAt b a with
    | some v => if 0x0F20000 ≤ a ∧ isOdd b ((a - 0x0F20000) / 0x40) = true then clean 0 else clean (lo14 v)
    | none =>
      if a < 0x0F01000 then blkValue b m (a - 0x0F00000)
      else if a < 0x0F18000 then fieldValue b m ((a - 0x0F10000) / 0x1000) (a % 0x1000)
      else if a < 0x0F21000 then
        let x := engValue b m ((a - 0x0F20000) / 0x40) (a % 0x40)
        { v := lo14 x.1, p := x.2 }
      else if a % 0x10 = 1 then clean (linkStat b ((a - 0x0F30000) / 0x10))
      else clean (reg b a)

/-- The engine whose register a is, where it is the odd engine of a pair. -/
def atOdd (b : Blk) (a : Nat) : Bool := decide (0x0F20000 ≤ a) && decide (a < 0x0F21000) && isOdd b ((a - 0x0F20000) / 0x40)

/-- A register of the timebase island (R56, R562). -/
def isTbReg (a : Nat) : Bool := decide (0x0F00040 ≤ a) && decide (a < 0x0F000C0)

/-- The side effect of a read (R17; while NOBCLK is 1 a TB counter keeps its held value, R56): RC registers clear, wide registers latch, CTXDATA advances, EVCLAIM claims, CMDOUT
gives up its cell, CAPkSLOT clears NEW. -/
def regSide (m : Master) (a : Nat) (b : Blk) : Blk :=
  if regHere b a = false ∨ atOdd b a = true then b
  else
    match wideAt b a with
    | some v => setLatch m (a + 1) (hi14 v) b
    | none =>
      if a = aB 0x011 then onStw (fun w => { w with cmdout := w.cmdout.drop 1 }) b
      else if 0x0F00060 ≤ a ∧ a < 0x0F00080 ∧ a % 4 = 0 then (capslotRead ((a - 0x0F00060) / 4) b).2
      else if 0x0F10000 ≤ a ∧ a < 0x0F18000 ∧ 0x110 ≤ a % 0x1000 ∧ a % 0x1000 < 0x118 then
        (evClaim ((a - 0x0F10000) / 0x1000) (a % 0x1000 - 0x110) b).2
      else if 0x0F20000 ≤ a ∧ a < 0x0F21000 ∧ a % 0x40 = 0x03 then ctxDataRead ((a - 0x0F20000) / 0x40) b
      else
        match regRow a with
        | some d => if d.rc && !(isTbReg a && nobclk b) then setReg a 0 b else b
        | none => b

/-- A look at SLEEPLO finds it counted on (R362). -/
def lookAt (a : Nat) (b : Blk) : Blk := if a = aB 0x1C5 then sleepOn b else b

/-- A register read by master m (R17, R19, R535). Reply cells that waited for room in the FIFO move up (R452). -/
def regRead (m : Master) (a : Nat) (b : Blk) : BCell × Blk :=
  let b := lookAt a b
  (regValue b m a, if readsAct b m then (if a = aB 0x011 then replyFlush b.stw.waiting.length (regSide m a b) else regSide m a b) else b)

/-! Writes of registers. -/

/-- The key of RSTCTL and DBG.RESET (R491). -/
def keyOk (v : BitVec 14) : Bool := decide (fld v 4 10 = 0x2A5)

def rstctlWrite (v : BitVec 14) (b : Blk) : Blk :=
  if keyOk v ∧ fld v 0 2 = 1 ∧ modeOf b ≠ 1 then warmReset .software b
  else if keyOk v ∧ fld v 0 2 = 2 then coldReset .software b
  else rejectMode b

def dbgResetWrite (v : BitVec 14) (b : Blk) : Blk :=
  if keyOk v ∧ fld v 0 2 = 1 ∧ modeOf b ≠ 1 then warmReset .debug b
  else if keyOk v ∧ fld v 0 2 = 2 then coldReset .debug b
  else b

/-- A write of FPWR (R494): a set bit asks for power, a cleared one sets the field's target to 0. A field whose PSW_ACK has
still to fall asks again after that (R506). -/
def fpwrWrite (v : BitVec 14) (b : Blk) : Blk :=
  let old := reg b (aB 0x007)
  let new := v &&& BitVec.ofNat 14 (2 ^ nFields b - 1)
  powerRelease <| each (fun f b =>
    if bit new f ∧ (fieldOf b f).pwr = .off then
      { onField f (fun g => { g with pwr := .rising }) b with pswReq := b.pswReq ||| (1 <<< f) }
    else if bit old f ∧ bit new f = false then setTarget f 0 b else b)
    (List.range (nFields b)) (setReg (aB 0x007) new b)

/-- A write of CMDIN (R449); source 481 when INOVF sets (R474). -/
def cmdinPut (c : BCell) (b : Blk) : Blk :=
  if 256 ≤ b.stw.cmdin.length then
    if bit (reg b (aB 0x012)) 13 then b else stwRaise 481 (orReg (aB 0x012) 0x2000 b)
  else onStw (fun w => { w with cmdin := w.cmdin ++ [c] }) b

/-- A write of CMDCTL (R449, R476); replies that waited for room then enter the FIFO. -/
def cmdctlWrite (v : BitVec 14) (b : Blk) : Blk :=
  let b := if bit v 0 then clrReg (aB 0x012) 0x2000 (onStw (fun w => { w with cmdin := [] }) b) else b
  if bit v 1 then replyFlush b.stw.waiting.length (onStw (fun w => { w with cmdout := [] }) b) else b

/-- A write of PCTL, and of PLOAD (R441): ignored while BUSY is 1. -/
def pctlWrite (v : BitVec 14) (b : Blk) : Blk :=
  if b.mc.busy then b
  else
    let b := if bit v 0 then onMc (fun x => { x with stage := [] }) b else b
    if bit v 1 then onMc (fun x => { x with busy := true }) b else b

def ploadWrite (c : BCell) (b : Blk) : Blk :=
  if b.mc.busy ∨ 364 ≤ b.mc.stage.length then b else onMc (fun x => { x with stage := x.stage ++ [clean c.v] }) b

/-- A write of LEVELf: TARGET, at most 8 (R392, R559). -/
def levelWrite (f : Nat) (v : BitVec 14) (b : Blk) : Blk := if f < nFields b then wakeSettle (setTarget f (min 8 (fld v 4 4)) b) else b

/-- A write of MARGIN, and the K it gives at once while ISEN is 0 (R374, R379). -/
def marginWrite (v : BitVec 14) (b : Blk) : Blk :=
  let b := setReg (aB 0x0C4) (BitVec.ofNat 14 (min 100 (fld v 0 7))) b
  if b.gov.isen then b
  else
    let b := setReg (aB 0x0C9) (BitVec.ofNat 14 (marginK b)) b
    { b with fields := mapAll (fun g => { g with kUsed := marginK b }) b.fields }

/-- A write of FREEZE (R548): bit 8 is the debug master's. -/
def freezeWrite (m : Master) (v : BitVec 14) (b : Blk) : Blk :=
  if mayDebug b m then
    let old := reg b (aB 0x302)
    setReg (aB 0x302) (if m = .debug then v &&& 0x7FF else (v &&& 0x6FF) ||| (old &&& 0x100)) b
  else b

/-- A write to a block register (R562). -/
def blkWrite (m : Master) (off : Nat) (c : BCell) (b : Blk) : Blk :=
  let v := c.v
  let a := aB off
  if off = 0x001 then (modeReq (fld v 0 4) b).2
  else if off = 0x006 then rstctlWrite v b
  else if off = 0x007 then fpwrWrite v b
  else if off = 0x010 then cmdinPut c b
  else if off = 0x013 then cmdctlWrite v b
  else if off = 0x01A then orReg (aB 0x019) (v &&& 0xF) b
  else if off = 0x020 ∨ off = 0x147 then setReg a (if v = 0 then 1 else v) b
  else if off = 0x040 then orReg a (v &&& 3) b
  else if off = 0x042 then spsWrite v b
  else if off = 0x050 then gstartWrite v b
  else if off = 0x0C4 then marginWrite v b
  else if off = 0x0C6 then setReg a (BitVec.ofNat 14 (min 155 (fld v 0 8))) b
  else if off = 0x0C7 then setReg a (BitVec.ofNat 14 (max 1 (fld v 0 10))) b
  else if off = 0x0C8 then setReg a (BitVec.ofNat 14 (max 1 (fld v 0 8))) b
  else if 0x0D8 ≤ off ∧ off < 0x0E0 then levelWrite (off - 0x0D8) v b
  else if 0x100 ≤ off ∧ off < 0x12A then setReg (aB 0x12A) 2 (plainWrite a v b)
  else if off = 0x182 ∨ off = 0x183 then (if modeOf b = 2 then plainWrite a v b else orReg (aB 0x181) 4 b)
  else if off = 0x204 then pctlWrite v b
  else if off = 0x206 then ploadWrite c b
  else if off = 0x300 then (if m = .debug ∧ b.auth.level = 2 then plainWrite a v b else b)
  else if off = 0x302 then freezeWrite m v b
  else if off = 0x303 then (if mayDebug b m then haltAll v b else b)
  else if off = 0x304 then (if m = .debug ∧ b.auth.level = 2 then dbgResetWrite v b else b)
  else if off = 0x305 then (if mayDebug b m ∨ m = .debug then plainWrite a v b else b)
  else plainWrite a v b

/-- A write of FCFG (R52, R141, R480). -/
def fcfgWrite (f : Nat) (v : BitVec 14) (b : Blk) : Blk :=
  let old := reg b (aF f 0)
  let peerNew := v &&& 0x3E00
  let peerBad := (peerNew ≠ old &&& 0x3E00 ∧ (fenBit b f = true ∨ busyOf b f = true)) ∨
    (bit v 13 = true ∧ fld v 9 4 = fld (reg b (aF f 0x080)) 8 4)
  let fenBad := bit v 0 = true ∧ ¬ (modeOf b = 4 ∨ modeOf b = 5 ∨ modeOf b = 6)
  let new := (v &&& 0x1E) ||| (if peerBad then old &&& 0x3E00 else peerNew) ||| (if fenBad then old &&& 1 else v &&& 1)
  let b := setReg (aF f 0) new b
  let b := if bit new 0 then b else fenCleared f b
  let b := if peerBad then orReg (aF f 0x001) 0x40 b else b
  if fenBad then orReg (aB 0x003) 2 b else b

/-- A write of MATRING (R173, R178). -/
def matringWrite (f : Nat) (v : BitVec 14) (b : Blk) : Blk :=
  let cfg := reg b (aF f 0)
  if fenBit b f = true ∨ busyOf b f = true ∨ (bit cfg 13 = true ∧ fld v 8 4 = fld cfg 9 4) then orReg (aF f 0x081) 0x40 b
  else setReg (aF f 0x080) (BitVec.ofNat 14 (fld v 8 4 * 256 + min 240 (fld v 0 8))) b

/-- A write of DECISION or PRIMQ that carries the slot `sq` of the writing C0 (R43, R47, R48). -/
def slotWrite (f off : Nat) (sq : Option Nat) (c : BCell) (b : Blk) : Blk :=
  let flag := if off = 0x006 then 0x04 else 0x08
  match sq.bind (recOf b f) with
  | some r =>
    if r.settled.isSome then orReg (aF f 0x001) flag b
    else if off = 0x006 then
      onRec f r.seq (fun r => if c.p then { r with marked := true } else { r with decision := some c.v }) b
    else if r.prims.length < 32 then onRec f r.seq (fun r => { r with prims := r.prims ++ [c] }) b
    else count (aF f 0x00D) (onRec f r.seq (fun r => { r with prims := upd (fun x => { x with p := true }) r.prims 31 }) b)
  | none => orReg (aF f 0x001) flag b

/-- A write of LEDCTL (R372, R383). -/
def ledctlWrite (f : Nat) (v : BitVec 14) (b : Blk) : Blk :=
  let b := if bit v 0 then onField f (fun g => { g with bal := capOf b f }) (endStarved f b) else b
  if bit v 1 then clearEssential f b else b

/-- A write to a register of field f (R563). -/
def fieldWrite (m : Master) (f off : Nat) (sq : Option Nat) (c : BCell) (b : Blk) : Blk :=
  let v := c.v
  let a := aF f off
  if off = 0x000 then fcfgWrite f v b
  else if off = 0x002 then twinWrite f v b
  else if off = 0x003 then (if fenBit b f then orReg (aF f 0x001) 2 b else plainWrite a v (onField f (fun g => { g with posWarm := false }) b))
  else if off = 0x006 ∨ off = 0x007 then slotWrite f off sq c b
  else if off = 0x042 then
    (if modeOf b = 2 ∨ modeOf b = 3 then setReg (aF 0 0x042) (BitVec.ofNat 14 (max 1 (fld v 0 6))) b
     else orReg (aF f 0x041) 0x80 b)
  else if off = 0x080 then matringWrite f v b
  else if 0x0A0 ≤ off ∧ off < 0x0C0 then setReg a (BitVec.ofNat 14 (min 256 (fld v 0 9))) b
  else if off = 0x101 then refreshLines f (plainWrite a v b)
  else if 0x118 ≤ off ∧ off < 0x120 then evDone f (off - 0x118) v b
  else if 0x140 ≤ off ∧ off < 0x150 ∧ off % 4 = 0 then tmrCtlWrite f ((off - 0x140) / 4) v b
  else if off = 0x186 ∨ off = 0x187 then plainWrite a v (endStarved f b)
  else if off = 0x188 ∨ off = 0x189 then capEssential f (plainWrite a v b)
  else if off = 0x18E then ledctlWrite f v b
  else if off = 0x1C3 then orReg a (v &&& 0x2000) (plainWrite a v b)
  else if off = 0x1C6 then (if eccwb b then plainWrite a v b else b)
  else if 0x240 ≤ off ∧ off < 0x260 then (if mayDebug b m then plainWrite a v b else b)
  else if 0x280 ≤ off ∧ off < 0x2A0 then (if mayDebug b m then stimulus 6 f 0 (off - 0x280) c b else b)
  else if 0x2A0 ≤ off ∧ off < 0x2A3 then (if mayDebug b m ∨ m = .debug then plainWrite a v b else b)
  else plainWrite a v b

/-- A write of ECTL (R207, R213): a write of RUN = 0 clears MCHK; an engine that it finds between boundaries goes on to the next. -/
def ectlWrite (e : Nat) (v : BitVec 14) (b : Blk) : Blk :=
  let v := if 4 ≤ fld v 8 3 then putf v 8 3 7 else v
  let on := runBit b e
  let b := plainWrite (aE e 0x00) v b
  if bit v 11 then onEng e (fun x => { x with coast := false }) b
  else onEng e (fun x => { x with coast := (x.coast || on) && !x.mchk, mchk := false }) b

/-- A write to a register of engine e (R564); the odd engine of a pair ignores it (R330). -/
def engWrite (m : Master) (e off : Nat) (c : BCell) (b : Blk) : Blk :=
  let v := c.v
  let a := aE e off
  if isOdd b e then b
  else if off = 0x00 then ectlWrite e v b
  else if off = 0x02 then winWrite e v b
  else if off = 0x03 then ctxDataWrite e c b
  else if off = 0x05 then onEng e (fun x => { x with tpc := pair v (hi14 x.tpc) }) b
  else if off = 0x06 then onEng e (fun x => { x with tps := v }) b
  else if 0x23 ≤ off ∧ off < 0x26 then deadlineWrite e (off - 0x22) v (endStarved (fldOf e) b)
  else if off = 0x22 ∨ off = 0x26 ∨ off = 0x27 then promote e (plainWrite a v (endStarved (fldOf e) b))
  else if off = 0x30 then (if mayDebug b m then dbgctlWrite e v b else b)
  else if off = 0x31 then (if mayDebug b m then plainWrite a v b else b)
  else if off = 0x32 then (if mayDebug b m then dbgpcWrite e v b else b)
  else if off = 0x33 then (if mayDebug b m then dbgctxWrite e v b else b)
  else if 0x34 ≤ off ∧ off < 0x3C then
    (if mayDebug b m ∧ off - 0x34 ≤ b.cfg.ncomp then plainWrite a v b else b)
  else plainWrite a v b

/-- A doorbell of a present field. -/
def isDoorbell (a : Nat) : Bool := decide (0x0F10000 ≤ a) && decide (a < 0x0F18000) && decide (a % 0x1000 = 0x100)

/-- A write that reaches the register at a, with the slot of a writing C0. A doorbell is a raise also where the field is stopped or off
(R335, R360, R361). While NOBCLK is 1 a write of a TB register is
discarded (R56). -/
def regWrite (m : Master) (a : Nat) (sq : Option Nat) (c : BCell) (b : Blk) : Blk :=
  if isDoorbell a then doorbell ((a - 0x0F10000) / 0x1000) c b
  else if regHere b a = false then b
  else if isTbReg a && nobclk b then b
  else if a < 0x0F01000 then blkWrite m (a - 0x0F00000) c b
  else if a < 0x0F18000 then fieldWrite m ((a - 0x0F10000) / 0x1000) (a % 0x1000) sq c b
  else if a < 0x0F21000 then engWrite m ((a - 0x0F20000) / 0x40) (a % 0x40) c b
  else if a % 0x10 = 0 then linkCtlWrite ((a - 0x0F30000) / 0x10) c.v b
  else plainWrite a c.v b

/-! Any block address. -/

/-- A register address (R557). -/
def isRegAddr (a : Nat) : Bool := decide (0x0F00000 ≤ a) && decide (a < 0x1000000)
/-- An address of the host window (R512). -/
def isWindow (a : Nat) : Bool := decide (0x1000000 ≤ a)
/-- An access by master m to a field-memory word that a locked sequence holds waits (R231, R399). -/
def mustWait (b : Blk) (m : Master) (a : Nat) : Bool :=
  if a < 0x80000 then
    match m with
    | .engine e => if fldOf e = a / 0x10000 then heldByOther b e a else heldByAny b a
    | _ => heldByAny b a
  else false

/-- A memory answers: it is present, powered, and its island's clock runs (R6, R494, R534). -/
def memHere (b : Blk) (m : Mem) : Bool := memPresent b m && (match m with
  | .routeTab _ => true
  | m => (fieldOf b (memField m)).clk)

/-- The regions let master m make an access of a kind to a field-memory word (R402, R404). -/
def allowed (b : Blk) (m : Master) (kind : Nat) : Mem → Bool
  | .fieldMem f off => permits (permOf b f off (masterCode f m)) kind
  | _ => true

/-- A refusal is recorded, and raised where the master is no engine of the field (R405). -/
def refuse (m : Master) (kind : Nat) (x : Mem) (b : Blk) : Blk :=
  match x with
  | .fieldMem f off => raiseAll (denySources f (masterCode f m)) (recordDeny f off kind (masterCode f m) b)
  | _ => b

/-- A read of one cell: the cell, the status (0 OK, 1 refused) and the block. -/
def busRead (m : Master) (a : Nat) (b : Blk) : BCell × Nat × Blk :=
  if isWindow a then (absentCell, 1, b)
  else if isRegAddr a then
    let x := regRead m a b
    (x.1, 0, x.2)
  else
    match memAt a with
    | some x =>
      if memHere b x = false then (absentCell, 0, b)
      else if allowed b m 0 x = false then (absentCell, 1, refuse m 0 x b)
      else
        let y := rdMem x (masterCode (memField x) m) b
        (y.1, 0, y.2)
    | none => (absentCell, 0, b)

/-- A store of a cell into a memory, with what follows a write to a source table (R340, R341). -/
def memWrite (x : Mem) (c : BCell) (b : Blk) : Blk :=
  let b := storeMem x c b
  match x with
  | .srcTab f off => srcWritten f (off / 2) b
  | _ => b

/-- What a poisoned cell does at a register other than CMDIN, DECISION and PRIMQ, by master (R335, R462, R511): the status,
and the block where the write goes no further. -/
def poisonedWrite (m : Master) (a : Nat) (b : Blk) : Option (Nat × Blk) :=
  if regHere b a = false then some (0, b)
  else
  let lost (b : Blk) : Blk := if isDoorbell a then lostRaise ((a - 0x0F10000) / 0x1000) b else b
  match m with
  | .host => some (2, orReg (aB 0x01B) 4 (lost b))
  | .steward => some (2, lost b)
  | .linkDma => some (2, lost b)
  | .engine _ => if isDoorbell a then some (0, b) else none
  | .debug => none

/-- A register write by master m, with the rule for poison; status 0 OK, 2 poison. -/
def regStore (m : Master) (a : Nat) (sq : Option Nat) (c : BCell) (b : Blk) : Nat × Blk :=
  if c.p ∧ a ≠ aB 0x010 then
    match poisonedWrite m a b with
    | some x => x
    | none => (0, regWrite m a sq c b)
  else (0, regWrite m a sq c b)

/-- A store by master m into a memory that answers: the status and the block. Port B stores into a field memory for every master but
the field's own engines, and may lose to port A (R400). -/
def portStore (m : Master) (x : Mem) (c : BCell) (b : Blk) : Nat × Blk :=
  match x with
  | .fieldMem f off =>
    if masterCode f m < 8 then (0, storeMem (.fieldMem f off) c b)
    else
      let y := portB f off c b
      (if y.1 then 0 else 3, y.2)
  | x => (0, memWrite x c b)

/-- A write of one cell: the status (0 OK, 1 refused, 2 poison discarded, 3 dropped under R400) and the block. -/
def busStore (m : Master) (a : Nat) (sq : Option Nat) (c : BCell) (b : Blk) : Nat × Blk :=
  if isWindow a then (1, b)
  else if isRegAddr a then regStore m a sq c b
  else
    match memAt a with
    | some x =>
      if memHere b x = false then (0, b)
      else if allowed b m 1 x = false then (1, refuse m 1 x b)
      else portStore m x c b
    | none => (0, b)

/-- Both cells of a latched pair from one instant (R69, R326, R510): the 28-bit value, with the master's latch updated where
`latches`. -/
def instantPair (m : Master) (a : Nat) (latches : Bool) (b : Blk) : Option ((BitVec 28) × Blk) :=
  if regHere b a = true ∧ atOdd b a = false then
    let b := lookAt a b
    match wideAt b a with
    | some v => some (v, if latches then setLatch m (a + 1) (hi14 v) b else b)
    | none => none
  else none

end Sys2Proof.Machine
end

