-- ==== Sys2Proof/Machine/Operands.lean ====
section
/-! DEFINITION. The operands of a syllable (chapters 6, 7, 9, 10): where it executes, the outcomes of its checks and of its
work, engine addresses, data accesses with their traps, locked ranges, the store buffer, the host window, the data-watch
units, and the stacks' spills and fills. -/

namespace Sys2Proof.Machine

/-- Where a syllable executes: engine, context, whether the engine is a twin pair, kernel level, the address and content of
its code cell, whether it is syllable B, its inline cells, the address of the first of them, the address of the next cell,
and its number: the code of a primary syllable, 128 + B for an extended operation. -/
structure Site where
  e : Nat
  c : Nat
  tw : Bool
  kern : Bool
  pc : BitVec 28
  cell : BitVec 14
  second : Bool
  inl : List BCell
  inlAt : BitVec 28
  next : BitVec 28
  id : Nat
deriving DecidableEq, Repr

/-- The 7-bit code of the syllable, and the partner field of its cell. -/
def Site.code (s : Site) : Nat := if s.second then fld s.cell 0 7 else fld s.cell 7 7
def Site.partner (s : Site) : Nat := fld s.cell 0 7
/-- TINFO where the table of R205 says Syllable, and where R254 says Cell. -/
def Site.sylInfo (s : Site) : BitVec 28 := BitVec.ofNat 28 s.code
def Site.cellInfo (s : Site) : BitVec 28 := s.cell.setWidth 28
/-- The context as it stands, and the words that a cell of the engine takes in memory (R325). -/
def Site.ctx (s : Site) (b : Blk) : Ctx := ctxOf b s.e s.c
def Site.words (s : Site) : Nat := if s.tw then 2 else 1
def Site.field (s : Site) : Nat := fldOf s.e
def Site.master (s : Site) : Master := .engine s.e

/-- The outcome of a check, or of work before the commit: it may go on, one cell was spilled or filled and the command
ends there (R350, R539), it traps (cause and TINFO), it waits, or a machine check ends it (R434: cause, MCADDR, MCNANO). -/
inductive Chk where
  | ok (b : Blk)
  | part (b : Blk)
  | trap (cause : Nat) (info : BitVec 28) (b : Blk)
  | wait (b : Blk)
  | check (cause : Nat) (addr nano : BitVec 14) (b : Blk)
deriving DecidableEq, Repr

/-- One check after another. -/
def Chk.next (x : Chk) (g : Blk → Chk) : Chk :=
  match x with
  | .ok b => g b
  | .part b => .part b
  | .trap k i b => .trap k i b
  | .wait b => .wait b
  | .check k a n b => .check k a n b

/-- The outcome of a syllable: it commits and falls through, transfers control, or has set its context's place itself; one
commit of a block operation; a trap; a wait, the block as it stands meanwhile; or a machine check. -/
inductive Rs where
  | done (b : Blk)
  | jump (t : BitVec 28) (b : Blk)
  | leave (b : Blk)
  | part (b : Blk)
  | trap (cause : Nat) (info : BitVec 28) (b : Blk)
  | wait (b : Blk)
  | check (cause : Nat) (addr nano : BitVec 14) (b : Blk)
deriving DecidableEq, Repr

/-- Work after a check. -/
def Chk.then (x : Chk) (g : Blk → Rs) : Rs :=
  match x with
  | .ok b => g b
  | .part b => .part b
  | .trap k i b => .trap k i b
  | .wait b => .wait b
  | .check k a n b => .check k a n b

/-- Debit a class for the running context (R373). -/
def pay (s : Site) (k : Nat) (b : Blk) : Blk := debit s.e s.c k 1 b

/-! Engine addresses (R195, R227, R324). -/

/-- A value as an engine address, and an address some cells further on. -/
def Site.addr (s : Site) (v : BitVec 28) : BitVec 28 := wid s.tw v
def Site.off (s : Site) (a : BitVec 28) (n : Nat) : BitVec 28 := wid s.tw (a + BitVec.ofNat 28 n)

/-- The block address of an engine address. -/
def resolve (s : Site) (b : Blk) (a : BitVec 28) : Nat :=
  if s.tw then a.toNat
  else ((nth 0 (s.ctx b).views (fld a 12 2)).toNat % 0x4000) * 0x1000 + fld a 0 12

/-- The words of the engine cell at an engine address (R325, R326). -/
def cellWords (s : Site) (b : Blk) (a : BitVec 28) : List Nat :=
  let x := resolve s b a
  if s.tw ∧ isRegAddr x = false then [x, (x + 1) % 2 ^ 28] else [x]

/-- The word lies in the field memory of the engine's own field; in a register of the own engine or field (R373). -/
def isOwnMem (f a : Nat) : Bool := decide (a < 0x80000) && decide (a / 0x10000 = f)
def isOwnReg (s : Site) (a : Nat) : Bool :=
  (decide (aF s.field 0 ≤ a) && decide (a < aF s.field 0x1000)) || (decide (aE s.e 0 ≤ a) && decide (a < aE s.e 0x40))

/-- The ledger class of a data access (R373). -/
def accessClass (s : Site) (wr : Bool) (a : Nat) : Nat :=
  if isOwnMem s.field a then (if wr then 4 else 3) else if isOwnReg s a then 5 else 6

/-- Accesses to registers that user level may make (R199). -/
def userMay (s : Site) (wr : Bool) (a : Nat) : Bool :=
  let f := s.field
  let k := locOf s.e
  (!wr && decide (aB 0x040 ≤ a) && decide (a < aB 0x0C0)) ||
  (wr && (decide (a = aF f 0x006) || decide (a = aF f 0x007) || decide (a = aF f 0x100))) ||
  decide (a = aF f (0x110 + k)) || decide (a = aF f (0x118 + k))

/-- The same for an access of a kind (0 read, 1 write, 2 read and write). -/
def userMayKind (s : Site) (kind : Nat) (a : Nat) : Bool :=
  (kind == 1 || userMay s false a) && (kind == 0 || userMay s true a)

/-! Data-watch units (R545 to R547). -/

/-- A register of unit k. -/
def dwReg (b : Blk) (f k i : Nat) : BitVec 14 := reg b (aF f (0x240 + 8 * k + i))

/-- The word of an access that unit k matches (R545): its lowest word in the range, with its data. -/
def dwMatch (s : Site) (b : Blk) (wr stk : Bool) (ws : List (Nat × BCell)) (k : Nat) : Option (Nat × BCell) :=
  let f := s.field
  let ctl := dwReg b f k 4
  let cid := dwReg b f k 5
  let lo := (pair (dwReg b f k 0) (dwReg b f k 1)).toNat
  let hi := (pair (dwReg b f k 2) (dwReg b f k 3)).toNat
  if bit ctl 13 && bit ctl (if wr then 12 else 11) && (!stk || bit cid 0) &&
      (!(bit cid 13) || decide (fld cid 10 3 = locOf s.e)) && (!(bit cid 9) || decide (fld cid 6 3 = s.c)) then
    match ws.find? (fun w => decide (lo ≤ w.1) && decide (w.1 ≤ hi)) with
    | some w => if bit ctl 10 = false ∨ w.2.v &&& dwReg b f k 7 = dwReg b f k 6 &&& dwReg b f k 7 then some w else none
    | none => none
  else none

/-- Unit k acts on a word (R547). -/
def dwAct (s : Site) (k : Nat) (w : Nat × BCell) (b : Blk) : Blk :=
  let f := s.field
  let act := fld (dwReg b f k 4) 8 2
  let a := BitVec.ofNat 28 w.1
  let b := orReg (aF f 0x260) (1 <<< k) b
  let b := setReg (aF f 0x261) (lo14 a) (setReg (aF f 0x262) (hi14 a) (setReg (aF f 0x263) w.2.v b))
  let b := if act = 0 ∨ act = 2 then onEng s.e (fun x => { x with haltReq := some (x.haltReq.getD 5) }) b else b
  let b := if act ≠ 0 then traceField f (fieldPacket b 2 f (locOf s.e) k w.2) b else b
  if act = 3 then raise f 487 b else b

/-- Link j is armed for this engine and context. -/
def dwArmed (s : Site) (b : Blk) (j : Nat) : Bool :=
  match nth none (fieldOf b s.field).dwl j with
  | some x => decide (x.eng = s.e) && decide (x.ctx = s.c) && decide (0 < x.left)
  | none => false

/-- Unit k acts where its access matched. -/
def dwFire (s : Site) (k : Nat) : Option (Nat × BCell) → Blk → Blk
  | some w, b => dwAct s k w b
  | none, b => b

/-- A match of the first unit of link j arms it for the engine's context. -/
def dwArm (s : Site) (j : Nat) (m : Option (Nat × BCell)) (b : Blk) : Blk :=
  if m.isSome then
    onField s.field (fun g => { g with
      dwl := upd (fun _ => some { eng := s.e, ctx := s.c, left := fld (dwReg b s.field (2 * j + 1) 4) 0 6 + 1 }) g.dwl j }) b
  else b

/-- The two units of link j see an access (R546). -/
def dwPair (s : Site) (wr stk : Bool) (ws : List (Nat × BCell)) (j : Nat) (b : Blk) : Blk :=
  let link := fld (dwReg b s.field (2 * j + 1) 4) 6 2
  let m0 := dwMatch s b wr stk ws (2 * j)
  let m1 := dwMatch s b wr stk ws (2 * j + 1)
  if link = 1 then
    let b := dwArm s j m0 b
    if dwArmed s b j then dwFire s (2 * j + 1) m1 b else b
  else if link = 2 then (if m0.isSome then dwFire s (2 * j + 1) m1 b else b)
  else dwFire s (2 * j + 1) m1 (dwFire s (2 * j) m0 b)

/-- The units of the field see a committed access of one engine cell (R545). -/
def watch (s : Site) (wr stk : Bool) (ws : List (Nat × BCell)) (b : Blk) : Blk :=
  dwPair s wr stk ws 1 (dwPair s wr stk ws 0 b)

/-- A syllable that the context commits counts an armed link down (R546). -/
def dwCount (s : Site) (b : Blk) : Blk :=
  onField s.field (fun g => { g with dwl := g.dwl.map (fun l => match l with
    | some x =>
      if x.eng = s.e ∧ x.ctx = s.c then (if x.left ≤ 1 then none else some { x with left := x.left - 1 }) else l
    | none => l) }) b

/-! The store buffer (R301, R303). -/

/-- A port-A write of the engines' own field: a record cell that the writer stored there in the same field cycle, with other data, is
lost, and its slot is poisoned (R176, R400, R401). -/
def noteA (f off : Nat) (c : BCell) (b : Blk) : Blk :=
  let b := onField f (fun g => { g with lastA := some (off, c) }) b
  match (fieldOf b f).lastB.find? (fun x => x.2.1 == off) with
  | some x =>
    let b := onField f (fun g => { g with lastB := g.lastB.filter (fun y => y.2.1 != off) }) b
    if normCell x.2.2 = normCell c then b
    else
      let y := takeFree b
      if Config.sameCycle y.1 then poisonSlot f x.1 (dropB f y.2) else y.2
  | none => b

/-- One word of a draining store reaches its destination. -/
def drainWord (e : Nat) (sq : Option Nat) (w : Nat × BCell) (b : Blk) : Blk :=
  if isRegAddr w.1 then regWrite (.engine e) w.1 sq w.2 b
  else if isOwnMem (fldOf e) w.1 then
    match memAt w.1 with
    | some x => if memHere b x then noteA (fldOf e) (w.1 % 0x10000) w.2 (memWrite x w.2 b) else b
    | none => b
  else (busStore (.engine e) w.1 none w.2 b).2

/-- The regions of another field refuse engine e an access of a kind to a word (R404). -/
def refusedWord (b : Blk) (e kind a : Nat) : Option Mem :=
  if isRegAddr a ∨ isWindow a = true ∨ isOwnMem (fldOf e) a = true then none
  else
    match memAt a with
    | some x => if memHere b x ∧ allowed b (.engine e) kind x = false then some x else none
    | none => none

/-- The words of a draining store: a twin store is refused whole when either word is (R404). -/
def drainWords (e : Nat) (sq : Option Nat) (ws : List (Nat × BCell)) (b : Blk) : Blk :=
  match ws.findSome? (fun w => refusedWord b e 1 w.1) with
  | some x => refuse (.engine e) 1 x b
  | none => each (drainWord e sq) ws b

/-- The oldest store drains (R301); none where it must wait, for another's locked range (R231) or for room on the host
master port (R512), where it keeps its context (R242). -/
def drainOne (e : Nat) (b : Blk) : Option Blk :=
  match (engOf b e).sbuf with
  | [] => some b
  | x :: xs =>
    if x.ws.any (fun w => mustWait b (.engine e) w.1) then none
    else
      let win := x.ws.filter (fun w => isWindow w.1)
      if win.isEmpty then
        some (drainWords e x.seq x.ws (onEng e (fun y => { y with sbuf := xs }) b))
      else if 8 ≤ b.host.hm.length then none
      else
        let b := onEng e (fun y => { y with sbuf := xs }) b
        let b := drainWords e x.seq (x.ws.filter (fun w => !(isWindow w.1))) b
        some (onHost (fun h => { h with
          hm := h.hm ++ [{ m := .engine e, a := (win.map (fun w => w.1)).headD 0, wr := true, cells := win.map (fun w => w.2),
                           two := decide (win.length = 2), dead := false, ctx := x.ctx }] }) b)

/-- Up to n stores drain; none where one must wait. -/
def drainN (e : Nat) : Nat → Blk → Option Blk
  | 0, b => some b
  | n + 1, b =>
    match drainOne e b with
    | some b => drainN e n b
    | none => none

/-- Every store of the engine drains. -/
def drainAll (e : Nat) (b : Blk) : Option Blk := drainN e (engOf b e).sbuf.length b

/-- While the engine waits for n stores they drain as far as they can; where another's held range stops them, the sequence of this
engine breaks (R235). -/
def drainWait (e : Nat) : Nat → Blk → Blk
  | 0, b => b
  | n + 1, b =>
    match drainOne e b with
    | some b => drainWait e n b
    | none =>
      if lockHeld b e && ((engOf b e).sbuf.headD { ws := [], seq := none, ctx := 0 }).ws.any (fun w => mustWait b (.engine e) w.1) then breakLock e b
      else b

/-- The oldest n stores drain, or the engine waits. -/
def drainFirst (e n : Nat) (b : Blk) : Chk :=
  match drainN e n b with
  | some b => .ok b
  | none => .wait (drainWait e n b)

/-- Every store drains before the access (R229, R302). -/
def drained (e : Nat) (b : Blk) : Chk := drainFirst e (engOf b e).sbuf.length b

/-- A host-window write of context c is not answered yet. -/
def windowWrites (b : Blk) (e c : Nat) : Bool :=
  b.host.hm.any (fun q => decide (q.m = .engine e) && q.wr && decide (q.ctx = c))

/-- The stores of context c drain, with those before them. -/
def ownDrained (e c : Nat) (b : Blk) : Chk := drainFirst e (upToLast (fun x => decide (x.ctx = c)) (engOf b e).sbuf) b

/-- Every earlier store and register write of the context has reached its destination, a host-window write its answer (R242, R251,
R308). -/
def synchronized (e c : Nat) (b : Blk) : Chk :=
  (ownDrained e c b).next (fun b => if windowWrites b e c then .wait b else .ok b)

/-- Room for k more stores: the oldest drain as far as that takes (R301). -/
def roomFor (e k : Nat) (b : Blk) : Chk := drainFirst e ((engOf b e).sbuf.length + k - 4) b

/-- What the newest buffered store to a word holds (R302). -/
def buffered (b : Blk) (e a : Nat) : Option BCell :=
  ((engOf b e).sbuf.flatMap (fun x => x.ws)).reverse.findSome? (fun w => if w.1 = a then some w.2 else none)

/-- One buffered store covers every word of a list, and is the newest to each (R302). -/
def covered (b : Blk) (e : Nat) (ws : List Nat) : Bool :=
  match (engOf b e).sbuf.reverse.find? (fun x => x.ws.any (fun w => ws.contains w.1)) with
  | some x => ws.all (fun a => x.ws.any (fun w => decide (w.1 = a)))
  | none => true

/-! Checks of data accesses. The kinds are 0 read, 1 write, 2 read and write (R403). -/

/-- The sequence of this engine breaks when it meets another's held range (R235), and the access waits (R231). -/
def meetsHeld (s : Site) (b : Blk) : Chk := .wait (if lockHeld b s.e then breakLock s.e b else b)

/-- A word of a store by a broken sequence into its range: it is discarded without effect or trap (R233). -/
def discards (s : Site) (b : Blk) (a : Nat) : Bool :=
  match lockOf b s.e s.c with
  | some k => k.broken && k.addrs.contains a
  | none => false

/-- The word is a register at which a poisoned store bites: any but DECISION and PRIMQ (R203). -/
def isBitingReg (a : Nat) : Bool :=
  isRegAddr a && !(decide (0x0F10000 ≤ a) && decide (a < 0x0F18000) && (decide (a % 0x1000 = 6) || decide (a % 0x1000 = 7)))

/-- A poisoned cell stored at an engine address bites with kind 6 (R203). -/
def bitesStore (s : Site) (b : Blk) (ea : BitVec 28) (p : Bool) : Bool :=
  p && (cellWords s b ea).any (fun a => isBitingReg a && !(discards s b a))

/-- A data access that a syllable makes: its kind (0 read, 1 write, 2 read and write), its engine address, and whether it stores a
cell known to carry P = 1. -/
structure Access where
  kind : Nat
  ea : BitVec 28
  p : Bool
deriving DecidableEq, Repr

/-- The kind of an access to one word: what a broken sequence discards is no write (R233); none where nothing is left. -/
def kindAt (s : Site) (b : Blk) (kind a : Nat) : Option Nat :=
  if kind = 0 ∨ discards s b a = false then some kind else if kind = 1 then none else some 0

/-- A reason for which an access to one word is not made: the cause, TINFO, and the offset and kind that a refusal records. -/
structure Stop where
  cause : Nat
  info : BitVec 28
  deny : Option (Nat × Nat)
deriving DecidableEq, Repr

/-- What stops an access to one word: level, poison, the regions, or the host window from C0 (R199, R203, R205, R403). -/
def wordStop (s : Site) (b : Blk) (x : Access) (a : Nat) : Option Stop :=
  match kindAt s b x.kind a with
  | none => none
  | some kind =>
    let perm := permOf b s.field (a % 0x10000) (locOf s.e)
    if s.kern = false ∧ isRegAddr a = true ∧ userMayKind s kind a = false then some { cause := 4, info := s.sylInfo, deny := none }
    else if x.p ∧ kind ≠ 0 ∧ isBitingReg a = true then some { cause := 5, info := 6, deny := none }
    else if isOwnMem s.field a ∧ kind ≠ 1 ∧ permits perm 0 = false then some { cause := 8, info := x.ea, deny := some (a % 0x10000, 0) }
    else if isOwnMem s.field a ∧ kind ≠ 0 ∧ permits perm 1 = false then some { cause := 8, info := x.ea, deny := some (a % 0x10000, 1) }
    else if s.c = 0 ∧ isWindow a = true then some { cause := 9, info := x.ea, deny := none }
    else none

/-- A held range, or the field's memory held by any engine, makes an access to one word wait (R231). -/
def wordWaits (s : Site) (b : Blk) (x : Access) (a : Nat) : Bool := (kindAt s b x.kind a).isSome && mustWait b s.master a

/-- A property of the words that a syllable's accesses reach, in order. -/
def accessWords (s : Site) (b : Blk) (l : List Access) : List (Access × Nat) :=
  l.flatMap (fun x => (cellWords s b x.ea).map (fun a => (x, a)))

/-- The stop with the lowest cause, the first among equals (R205). -/
def lowest (l : List Stop) : Option Stop := l.find? (fun x => l.all (fun y => decide (x.cause ≤ y.cause)))

/-- The accesses of a syllable may be made: of what stops them the lowest cause is taken, a refusal being recorded, and held ranges
make them wait (R205, R231, R235, R405). -/
def chkAccess (s : Site) (l : List Access) (b : Blk) : Chk :=
  let ws := accessWords s b l
  match lowest (ws.filterMap (fun w => wordStop s b w.1 w.2)) with
  | some x =>
    .trap x.cause x.info (match x.deny with
      | some d => recordDeny s.field d.1 d.2 (locOf s.e) b
      | none => b)
  | none => if ws.any (fun w => wordWaits s b w.1 w.2) then meetsHeld s b else .ok b

/-! Reads. -/

/-- The host-window requests of a group of words: two cells at once where both are in the window (R512). -/
def winRequests (ws : List Nat) : List (Nat × Bool) :=
  match ws with
  | [x, y] => if isWindow x ∧ isWindow y ∧ y = x + 1 then [(x, true)] else (ws.filter isWindow).map (fun a => (a, false))
  | _ => (ws.filter isWindow).map (fun a => (a, false))

/-- Wait for the window cells that a read needs: issue the requests once, in program order after the stores (R512). -/
def askWindow (s : Site) (rs : List (Nat × Bool)) (b : Blk) : Chk :=
  let need := sumN (rs.map (fun r => if r.2 then 2 else 1))
  let x := engOf b s.e
  if need = 0 then .ok b
  else if 0 < x.hmNeed then (if x.hmNeed ≤ x.hmGot.length then .ok b else .wait b)
  else
    (drained s.e b).next (fun b =>
      if 8 < b.host.hm.length + rs.length then .wait b
      else
        let b := onHost (fun h => { h with
          hm := h.hm ++ rs.map (fun r => { m := s.master, a := r.1, wr := false, cells := [], two := r.2, dead := false, ctx := s.c }) }) b
        .wait (onEng s.e (fun x => { x with hmNeed := need, hmGot := [] }) b))

/-- What a syllable reads is at hand: earlier stores drain where the read is of a register, of the host window, or partly of one
buffered twin store (R302), or of an atomic or modifying access; then the window answers. `pairs` says that the cells form a two-cell
access (R512). -/
def fetchData (s : Site) (kind : Nat) (pairs : Bool) (eas : List (BitVec 28)) (b : Blk) : Chk :=
  let cells := eas.map (cellWords s b)
  let ws := cells.flatten
  let must := ws.any isRegAddr || kind == 2 || (s.tw && !(cells.all (covered b s.e)))
  (if must then drained s.e b else .ok b).next
    (askWindow s (if pairs && !s.tw then winRequests ws else cells.flatMap winRequests))

/-- The stores of a list that leave something to store take room (R233, R301). -/
def roomOf (s : Site) (l : List Access) (b : Blk) : Chk :=
  roomFor s.e (l.filter (fun x => decide (x.kind ≠ 0) && (cellWords s b x.ea).any (fun a => !(discards s b a)))).length b

/-- The accesses of a syllable are ready to be made: permissions and locks, then the reads, then room for the stores. -/
def ready (s : Site) (pairs : Bool) (l : List Access) (b : Blk) : Chk :=
  let reads := l.filter (fun x => decide (x.kind ≠ 1))
  (chkAccess s l b).next (fun b =>
    (if reads.isEmpty then .ok b
     else fetchData s (if reads.any (fun x => decide (x.kind = 2)) then 2 else 0) pairs (reads.map (fun x => x.ea)) b).next (roomOf s l))

/-- Ready to read the engine cells at a list of addresses. -/
def readyRead (s : Site) (pairs : Bool) (eas : List (BitVec 28)) (b : Blk) : Chk :=
  ready s pairs (eas.map (fun a => { kind := 0, ea := a, p := false })) b

/-- Ready to store engine cells, with their P, at a list of addresses. -/
def readyStore (s : Site) (l : List (BitVec 28 × Bool)) (b : Blk) : Chk :=
  ready s false (l.map (fun x => { kind := 1, ea := x.1, p := x.2 })) b

/-- One word is read, being ready: from the store buffer, from the window's answer, or where it stands. -/
def readWord (s : Site) (a : Nat) (b : Blk) : BCell × Blk :=
  if isWindow a then
    ((engOf b s.e).hmGot.headD absentCell, onEng s.e (fun x => { x with hmGot := x.hmGot.drop 1 }) b)
  else
    match (if isRegAddr a then none else buffered b s.e a) with
    | some c => (if c.p then absentCell else c, b)
    | none =>
      let x := busRead s.master a b
      (x.1, x.2.2)

/-- The words of a cell, one after another. -/
def readWords (s : Site) : List Nat → Blk → List BCell × Blk
  | [], b => ([], b)
  | a :: as, b =>
    let x := readWord s a b
    let y := readWords s as x.2
    (x.1 :: y.1, y.2)

/-- The engine cell that its words make (R325, R326). -/
def joinCells : List BCell → SCell
  | [] => emptyPlace
  | [x] => scP (x.v.setWidth 28) x.p
  | x :: y :: _ => scP (pair x.v y.v) (x.p || y.p)

/-- The LO registers of the counters that a pair's cell holds whole: TB.SWEEPLO, TB.RUNTIMELO and CYCLO (R326). -/
def isCounterLo (a : Nat) : Bool :=
  a == aB 0x046 || a == aB 0x048 || (decide (0x0F20000 ≤ a) && decide (a < 0x0F21000) && a % 0x40 == 0x0E)

/-- Read the engine cell at an address, being ready. A pair's read of a counter's LO register is of the whole value from one instant
(R326). -/
def readCell (s : Site) (stk : Bool) (ea : BitVec 28) (b : Blk) : SCell × Blk :=
  let ws := cellWords s b ea
  let wide := match ws with
    | [a] => if s.tw && isCounterLo a then instantPair s.master a false b else none
    | _ => none
  match wide with
  | some (v, b) => (sc v, watch s false stk [(resolve s b ea, clean (lo14 v))] b)
  | none =>
    let x := match ws.findSome? (refusedWord b s.e 0) with
      | some y => (ws.map (fun _ => absentCell), refuse s.master 0 y b)
      | none => readWords s ws b
    (joinCells x.1, watch s false stk (ws.zip x.1) x.2)

/-! Stores. -/

/-- A value, as the words it writes at an engine address (R325, R326). -/
def storeWords (s : Site) (b : Blk) (ea : BitVec 28) (v : SCell) : List (Nat × BCell) :=
  (cellWords s b ea).zip [{ v := lo14 v.v, p := v.p }, { v := hi14 v.v, p := v.p }]

/-- The words of a store that a broken sequence of the context discards are left out, and those in its range are counted; the
store that brings the count to n ends the sequence (R232, R233). -/
def lockStore (s : Site) (ws : List (Nat × BCell)) (b : Blk) : List (Nat × BCell) × Blk :=
  match lockOf b s.e s.c with
  | none => (ws, b)
  | some k =>
    let inside := ws.filter (fun w => k.addrs.contains w.1)
    (ws.filter (fun w => !(discards s b w.1)), onEng s.e (fun x => { x with
      locks := x.locks.map (fun y => if y.ctx = s.c then { y with stored := y.stored + inside.length } else y) }) b)

/-- The slot that a store by C0 to DECISION or PRIMQ of its own field belongs to (R47). -/
def storeSlot (s : Site) (b : Blk) (ws : List (Nat × BCell)) : Option Nat :=
  if s.c = 0 && ws.any (fun w => isSlotReg s.field w.1) then (engOf b s.e).slot else none

/-- Buffer a store, being ready. -/
def putStore (s : Site) (ws : List (Nat × BCell)) (b : Blk) : Blk :=
  let x := lockStore s ws b
  if x.1.isEmpty then x.2
  else onEng s.e (fun y => { y with sbuf := y.sbuf ++ [{ ws := x.1, seq := storeSlot s b x.1, ctx := s.c }] }) x.2

/-- Store one engine cell, being ready. -/
def storeCell (s : Site) (stk : Bool) (ea : BitVec 28) (v : SCell) (b : Blk) : Blk :=
  let ws := storeWords s b ea v
  watch s true stk ws (putStore s ws b)

/-- Store two engine cells (R227): one request of two cells in the host window (R512). -/
def storeTwo (s : Site) (ea : BitVec 28) (x y : SCell) (b : Blk) : Blk :=
  let w1 := storeWords s b ea x
  let w2 := storeWords s b (s.off ea s.words) y
  if s.tw = false ∧ (w1 ++ w2).all (fun w => isWindow w.1) = true then
    watch s true false w2 (watch s true false w1 (putStore s (w1 ++ w2) b))
  else storeCell s false (s.off ea s.words) y (storeCell s false ea x b)

/-- Classes 3 to 6 that a syllable's accesses describe, each once (R373). -/
def payAccess (s : Site) (ks : List Nat) (b : Blk) : Blk := each (fun k b => pay s k b) ks.eraseDups b
def readClass (s : Site) (b : Blk) (ea : BitVec 28) : Nat := accessClass s false (resolve s b ea)
def writeClass (s : Site) (b : Blk) (ea : BitVec 28) : Nat := accessClass s true (resolve s b ea)

/-! Spills and fills (R187 to R191, R310). -/

/-- A cell spilled or filled (R190, R213, R373). -/
def spilt (s : Site) (b : Blk) : Blk := debitCycles s.e s.c 20 1 (count (aE s.e 0x11) b)

/-- The hardware sequence of a spill or fill runs, ends in a machine check, or never commits (R427, R431, R434). -/
def sequence (s : Site) (q : HwSeq) (g : Blk → Chk) (b : Blk) : Chk :=
  match micro b s.field (seqEntry q) with
  | .fine => g b
  | .idle => .wait b
  | .check k a n _ => .check k a n b

/-- Fill one cell of the data stack. -/
def fillData (s : Site) (b : Blk) : Chk :=
  let y := s.ctx b
  if s.c = 4 then .trap 6 0 b
  else if y.dsp ≤ y.dbase then .trap 6 y.dbase b
  else
    let a := wid s.tw (y.dsp - BitVec.ofNat 28 s.words)
    (readyRead s false [a] b).next (fun b =>
      let x := readCell s true a b
      .ok (spilt s (onCtx s.e s.c (fun y => { y with dsp := a, data := y.data ++ [x.1] }) x.2)))

/-- Fill one cell of the return stack. -/
def fillRet (s : Site) (b : Blk) : Chk :=
  let y := s.ctx b
  if s.c = 4 then .trap 7 0 b
  else if y.rsp ≤ y.rbase then .trap 7 y.rbase b
  else
    let a := wid s.tw (y.rsp - BitVec.ofNat 28 s.words)
    (readyRead s false [a] b).next (fun b =>
      let x := readCell s true a b
      .ok (spilt s (onCtx s.e s.c (fun y => { y with rsp := a, ret := y.ret ++ [x.1] }) x.2)))

/-- After a cell spilled or filled comes a commit point (R350): the command ends there. -/
def stepCommit (s : Site) (b : Blk) : Chk := .part (clearGot s.e b)

/-- The data stack, and the return stack, hold k cells, or one is filled (R189). -/
def needData (s : Site) (k : Nat) (b : Blk) : Chk :=
  if k ≤ (s.ctx b).data.length then .ok b else (sequence s .fill (fillData s) b).next (stepCommit s)
def needRet (s : Site) (k : Nat) (b : Blk) : Chk :=
  if k ≤ (s.ctx b).ret.length then .ok b else (sequence s .fill (fillRet s) b).next (stepCommit s)

/-- Spill the deepest cell of the data stack. -/
def spillData (s : Site) (b : Blk) : Chk :=
  let y := s.ctx b
  if s.c = 4 then .trap 10 0 b
  else if y.dlim ≤ y.dsp then .trap 10 y.dlim b
  else
    let b := if (y.data.getLastD emptyPlace).pend then settleFirst (lopData s.c) s.e b else b
    let y := s.ctx b
    let v := y.data.getLastD emptyPlace
    (readyStore s [(y.dsp, v.p)] b).next (fun b =>
      let b := storeCell s true y.dsp v b
      let b := (drainAll s.e b).getD b
      .ok (spilt s (onCtx s.e s.c (fun y => { y with dsp := s.off y.dsp s.words, data := y.data.dropLast, dgrp := y.dgrp - 1 }) b)))

/-- Spill the deepest cell of the return stack. -/
def spillRet (s : Site) (b : Blk) : Chk :=
  let y := s.ctx b
  if s.c = 4 then .trap 11 0 b
  else if y.rlim ≤ y.rsp then .trap 11 y.rlim b
  else
    let v := y.ret.getLastD emptyPlace
    (readyStore s [(y.rsp, v.p)] b).next (fun b =>
      let b := storeCell s true y.rsp v b
      let b := (drainAll s.e b).getD b
      .ok (spilt s (onCtx s.e s.c (fun y => { y with rsp := s.off y.rsp s.words, ret := y.ret.dropLast, rgrp := y.rgrp - 1 }) b)))

/-- Room for a data stack that loses `out` cells and gains `inn` (R188): groups of four are spilled until it fits, a group once
begun being finished (R190), and a cell at a time. -/
def roomData (s : Site) (out inn : Nat) (b : Blk) : Chk :=
  let y := s.ctx b
  if y.data.length + inn - out ≤ capData s.c ∧ (y.dgrp = 0 ∨ y.data.isEmpty = true) then
    .ok (if y.dgrp = 0 then b else onCtx s.e s.c (fun y => { y with dgrp := 0 }) b)
  else (sequence s .spill (spillData s) (if y.dgrp = 0 then onCtx s.e s.c (fun y => { y with dgrp := 4 }) b else b)).next (stepCommit s)

/-- The same for the return stack, in groups of two. -/
def roomRet (s : Site) (out inn : Nat) (b : Blk) : Chk :=
  let y := s.ctx b
  if y.ret.length + inn - out ≤ capRet s.c ∧ (y.rgrp = 0 ∨ y.ret.isEmpty = true) then
    .ok (if y.rgrp = 0 then b else onCtx s.e s.c (fun y => { y with rgrp := 0 }) b)
  else (sequence s .spill (spillRet s) (if y.rgrp = 0 then onCtx s.e s.c (fun y => { y with rgrp := 2 }) b else b)).next (stepCommit s)

end Sys2Proof.Machine
end

