-- ==== Sys2Proof/Machine/Flags.lean ====
section
/-! DEFINITION. The flags of PS and FSTATUS, and every flag computation (R183, R184, R226, R257, R261, R271, R280, R281). -/

namespace Sys2Proof.Machine

/-! PS (R183). -/

def psC (y : Ctx) : Bool := bit y.ps 1
def psV (y : Ctx) : Bool := bit y.ps 2
def psDZ (y : Ctx) : Bool := bit y.ps 3
def psDV (y : Ctx) : Bool := bit y.ps 4
def psPF (y : Ctx) : Bool := bit y.ps 5
def psTD (y : Ctx) : Bool := bit y.ps 6
def psTZ (y : Ctx) : Bool := bit y.ps 7
def psTV (y : Ctx) : Bool := bit y.ps 8
/-- Rounding: 0 RNE, 1 RTZ, 2 RUP, 3 RDN. -/
def psRM (y : Ctx) : Nat := fld y.ps 9 2
def psFPA (y : Ctx) : Bool := bit y.ps 11

/-- The PS bits a syllable writes: a mask, and their new values. -/
structure FlagSet where
  mask : BitVec 14
  val : BitVec 14
deriving DecidableEq, Repr

def FlagSet.none : FlagSet := { mask := 0, val := 0 }

/-- PS with some flags written. -/
def putFlags (f : FlagSet) (y : Ctx) : Ctx := { y with ps := (y.ps &&& ~~~f.mask) ||| (f.val &&& f.mask) }

/-- A write of one flag bit, and two writes together. -/
def flagBit (i : Nat) (x : Bool) : FlagSet := { mask := 1 <<< i, val := if x then 1 <<< i else 0 }
def FlagSet.and (f g : FlagSet) : FlagSet := { mask := f.mask ||| g.mask, val := f.val ||| g.val }

/-- A write of C, of V, and of both, with PF from the P of the inputs (R184). -/
def flagC (c p : Bool) : FlagSet := (flagBit 1 c).and (flagBit 5 p)
def flagV (v p : Bool) : FlagSet := (flagBit 2 v).and (flagBit 5 p)
def flagCV (c v p : Bool) : FlagSet := (flagBit 1 c).and (flagV v p)

/-! Numbers at the width of the engine (R256, R290). -/

def wbits (tw : Bool) : Nat := if tw then 28 else 14
def umod (tw : Bool) : Nat := 2 ^ wbits tw
/-- The unsigned and the signed value of a cell. -/
def uval (tw : Bool) (v : BitVec 28) : Nat := v.toNat % umod tw
def sval (tw : Bool) (v : BitVec 28) : Int :=
  if 2 * uval tw v < umod tw then (uval tw v : Int) else (uval tw v : Int) - umod tw
/-- The signed range (R257, R290). -/
def smax (tw : Bool) : Int := (umod tw / 2 : Nat) - 1
def smin (tw : Bool) : Int := -((umod tw / 2 : Nat) : Int)
def inRange (tw : Bool) (n : Int) : Bool := decide (smin tw ≤ n) && decide (n ≤ smax tw)
/-- A result modulo the width. -/
def ofInt (tw : Bool) (n : Int) : BitVec 28 := BitVec.ofNat 28 (n % (umod tw : Int)).toNat
def ofNatW (tw : Bool) (n : Nat) : BitVec 28 := BitVec.ofNat 28 (n % umod tw)
/-- The signed value clamped to the range. -/
def clampW (tw : Bool) (n : Int) : Int := max (smin tw) (min (smax tw) n)

/-! FSTATUS (R181, R280, R281): I 16, Z 8, O 4, U 2, X 1. -/

/-- The enables, in the order of the flags. -/
def fenables (y : Ctx) : BitVec 14 := (y.fstatus >>> 5) &&& 0x1F
def raiseFs (fl : BitVec 14) (y : Ctx) : Ctx := { y with fstatus := y.fstatus ||| (fl &&& 0x1F) }
def fI : BitVec 14 := 16
def fZ : BitVec 14 := 8
def fO : BitVec 14 := 4
def fU : BitVec 14 := 2
def fX : BitVec 14 := 1

end Sys2Proof.Machine
end

