-- ==== Sys2Proof/Machine/Issue.lean ====
section
/-! DEFINITION. How an engine issues a syllable: the choice of a context (R367 to R369), fetch and decode (R200, R214 to R218,
R254, R294), comparators (R543, R544), machine checks (R434), traps (R205 to R207), commits, and the shared order in which a
syllable's conditions are met (R205, R222). -/

namespace Sys2Proof.Machine

/-! The choice of a context (R367 to R370). -/

/-- Events are sampled: not during a debug step with SEV = 0 (R539). -/
def samples (b : Blk) (e : Nat) : Bool := !((engOf b e).stepping) || bit (reg b (aE e 0x30)) 4

/-- A source is deliverable to context c, and sampled. -/
def called (b : Blk) (e c : Nat) : Bool :=
  decide (1 ≤ c) && decide (c ≤ 3) && samples b e && (topSource b (fldOf e) (locOf e) c).isSome

/-- Context c may be chosen under R368. -/
def choosable (b : Blk) (e c : Nat) : Bool :=
  !(decide (c = 0) && isMember b e) && (decide ((ctxOf b e c).state = 1) || called b e c) && eligible b e c

/-- The contexts in the order of R369 for equal priorities: the running one while its turn lasts, then ascending after the one
that last ran. -/
def turnOrder (x : Engine) : List Nat :=
  let rest := (List.range 4).map (fun i => (x.lastRan + 1 + i) % 4)
  match x.run with
  | some c => if x.turnOver then rest else c :: rest
  | none => rest

/-- The context of highest priority, the first in turn among equals. -/
def choose (b : Blk) (e : Nat) : Option Nat :=
  let cs := (turnOrder (engOf b e)).filter (fun c => decide (c ≤ 3) && choosable b e c)
  cs.find? (fun c => cs.all (fun d => decide (prioOf b e d ≤ prioOf b e c)))

/-- The context to run at a boundary, and whether it is entered by an event (R367, R370). A paired syllable B, and an access to
the host window under way, belong to the running context; an entry in progress goes on. -/
def pick (b : Blk) (e : Nat) : Option (Nat × Bool) :=
  let x := engOf b e
  if x.entry.isSome then x.entry.map (fun n => (n.ctx, true))
  else if x.run = some 4 ∨ x.pairB = true ∨ 0 < x.hmNeed then x.run.map (fun c => (c, false))
  else if x.slot.isSome then some (0, false)
  else
    match x.locks.find? (fun k => !k.broken) with
    | some k => some (k.ctx, false)
    | none => (choose b e).map (fun c => (c, called b e c))

/-! Machine checks (R434, R435). -/

/-- Engine e stops with a machine check of a cause at a micro address: its window access is given up (R433). -/
def machineCheck (e cause : Nat) (addr : BitVec 14) (nano : BitVec 14) (src : Nat) (b : Blk) : Blk :=
  mcheckHalt e cause addr nano src (clearGot e (hmForget e b))

/-- The micro address of the first word of a syllable's routine (R427). -/
def microEntry (s : Site) : Nat := sylEntry s.code s.partner (decide (s.code = 0x72) && !s.second)

/-! Traps (R205 to R207). -/

/-- Where FE starts for a cause (R205, R322). -/
def vectorOf (s : Site) (b : Blk) (cause : Nat) : BitVec 28 :=
  let v := (reg b (aE s.e 0x08)).toNat + 2 * cause
  if s.tw then BitVec.ofNat 28 (codeBase s.e + v % 0x2000) else BitVec.ofNat 28 (v % 0x4000)

/-- A trap condition met in FE (R207). -/
def doubleFault (s : Site) (cause : Nat) (b : Blk) : Blk :=
  let b := setReg (aE s.e 0x0C) (BitVec.ofNat 14 cause) b
  let b := onEng s.e (fun x => { x with dfpc := s.pc, pairB := false })
    (onCtx s.e 4 emptyStacks (settleLast (lopOf 4) s.e (clearGot s.e b)))
  machineCheck s.e 4 (BitVec.ofNat 14 (microEntry s)) (BitVec.ofNat 14 (romNano (microEntry s))) 508 b

/-- The trap entry that R205 describes, for the syllable named by a cell address and SYLB. Long operations of the trapping context go on
(R307), and TPS takes the PS that they will leave (R266). The hardware sequences may end in a machine check in its place (R434). -/
def enterTrap (s : Site) (cause : Nat) (info : BitVec 28) (pc : BitVec 28) (sylb : Bool) (b : Blk) : Blk :=
  match micros b s.field [seqEntry .trap, seqEntry .switch] with
  | .check k a n _ => machineCheck s.e k a n 509 b
  | .idle => b
  | .fine =>
  let b := settleLast (lopOf 4) s.e (clearGot s.e b)
  let b := if (lockOf b s.e s.c).isSome then
      onEng s.e (fun x => { x with locks := x.locks.map (fun k => if k.ctx = s.c then { k with broken := true } else k) }) b
    else b
  let b := onEng s.e (fun x => { x with
    tpc := pc, tps := psSettled b s.e s.c, tinfo := wid s.tw info, pairB := false, entry := none }) b
  let b := setReg (aE s.e 0x04) (BitVec.ofNat 14 (b2n sylb * 0x2000 + s.c * 0x400 + cause)) b
  let b := count (aE s.e 0x13) (switchIn s.e 4 b)
  onCtx s.e 4 (fun y => { emptyStacks y with pc := vectorOf s b cause, sylb := false }) b

/-- A syllable meets a trap condition (R203, R205, R207). Each bite is counted (R204); what the cell's fetch owes is not debited
(R373). -/
def takeTrap (s : Site) (cause : Nat) (info : BitVec 28) (b : Blk) : Blk :=
  let b := onEng s.e (fun x => { x with owed := [] }) b
  let b := if cause = 5 then count (aE s.e 0x10) b else b
  if s.c = 4 then doubleFault s cause b else enterTrap s cause info s.pc s.second b

/-! Fetch (R200, R201, R243, R297). -/

/-- The memory that a fetch of engine address a reads, if it is one of the sources of R200. -/
def fetchMem (s : Site) (b : Blk) (a : BitVec 28) : Option Mem :=
  let x := resolve s b a
  if codeBase s.e ≤ x ∧ x < codeBase s.e + codeLen b s.e then memAt x
  else if isOwnMem s.field x then memAt x
  else none

/-- The regions refuse a fetch (R403, R405). -/
def fetchRefused (s : Site) (b : Blk) : Mem → Bool
  | .fieldMem f off => !(permits (permOf b f off (locOf s.e)) 2)
  | _ => false

/-- A fetch from field memory meets another's held range (R231). -/
def fetchHeld (s : Site) (b : Blk) : Mem → Bool
  | .fieldMem f off => heldByOther b s.e (f * 0x10000 + off)
  | _ => false

/-- The cell at an engine address in the prefetch buffer. -/
def pfAt (b : Blk) (e : Nat) (a : BitVec 28) : Option PfCell := (engOf b e).pf.find? (fun p => decide (p.a = a))

/-- A word of the code store is correctable as it stands (R213). -/
def correctable (b : Blk) (m : Mem) : Bool := decide ((eccDecode (rawWord b (memAddr m))).cls = .correctable)

/-- A fetch reads its word: the errors it meets are counted (R411, R412, R416), those of the code store in CSCE too (R213). -/
def fetchWord (s : Site) (m : Mem) (b : Blk) : BCell × Blk :=
  match m with
  | .fieldMem _ _ => rdMem m (locOf s.e) b
  | _ => rdMem m (locOf s.e) (if correctable b m then count (aE s.e 0x14) b else b)

/-- Fetch one cell into the prefetch buffer, unless it is there or has no source. -/
def prefetch (s : Site) (a : BitVec 28) (b : Blk) : Blk :=
  if (pfAt b s.e a).isSome then b
  else
    match fetchMem s b a with
    | some m =>
      if fetchRefused s b m ∨ fetchHeld s b m then b
      else
        let y := fetchWord s m b
        onEng s.e (fun x => { x with pf := x.pf ++ [{ a := a, c := y.1, seen := false }] }) y.2
    | none => b

/-- The prefetch buffer holds the cell to issue and the four after it (R201, R303). -/
def prefetchAll (s : Site) (b : Blk) : Blk :=
  let as := (List.range 5).map (fun i => s.off s.pc i)
  each (prefetch s) as (onEng s.e (fun x => { x with pf := x.pf.filter (fun p => as.contains p.a) }) b)

/-- The cells of a list that lie in the prefetch buffer and come from field memory (R297). -/
def fieldCells (s : Site) (b : Blk) (as : List (BitVec 28)) : Nat :=
  (as.filter (fun a => (pfAt b s.e a).isSome && (match fetchMem s b a with
    | some (.fieldMem _ _) => true
    | _ => false))).length

/-- A code cell issues for the first time, with its inline cells: XFETCH counts those fetched from field memory (R297), and their
debits, with that of a pair's code cell, are owed when a syllable of the cell commits (R373). -/
def countIssue (s : Site) (inline : List (BitVec 28)) (b : Blk) : Blk :=
  let n := fieldCells s b (s.pc :: inline)
  let b := onEng s.e (fun x => { x with
    pf := x.pf.map (fun q => if q.a = s.pc then { q with seen := true } else q),
    owed := (if s.tw then [25] else []) ++ List.replicate n 19 }) b
  countN (aE s.e 0x12) n b

/-! Decode (R214 to R218, R254, R323). -/

/-- The inline operands of a primary syllable. -/
def inlineOf (code : Nat) : Nat :=
  if code = 0x71 then 2 else if (0x40 ≤ code ∧ code ≤ 0x43) ∨ code = 0x70 then 1 else 0

def isPartner (code : Nat) : Bool := [0x48, 0x49, 0x4A, 0x72, 0x75, 0x76, 0x7D].contains code

/-- The extended operations (R245). -/
def extOps : List Nat :=
  [0x00, 0x01, 0x02, 0x03, 0x04, 0x08, 0x09, 0x10, 0x11, 0x12, 0x13, 0x14, 0x15, 0x18, 0x19, 0x1A, 0x20, 0x21, 0x22, 0x23,
   0x24, 0x28, 0x29]

/-- The cell as a whole is illegal (R216, R244, R245, R254). -/
def cellIllegal (cell : BitVec 14) : Bool :=
  let a := fld cell 7 7
  let p := fld cell 0 7
  (!(isPartner a) && decide (0 < inlineOf a) && decide (0 < inlineOf p)) ||
  (decide (a = 0x72) && !(extOps.contains p)) || (decide (a = 0x7D) && decide (32 ≤ p))

/-- The number of the syllable to issue; 127, ILLEGAL, for every encoding that R254 makes illegal. -/
def sylId (cell : BitVec 14) (second : Bool) : Nat :=
  let a := fld cell 7 7
  let p := fld cell 0 7
  if cellIllegal cell then 127
  else if second then (if isPartner p ∨ p = 0x7E then 127 else p)
  else if a = 0x72 then 128 + p
  else if a = 0x7E then 127
  else a

/-- Where the context stands, before its cell is fetched. -/
def siteAt (b : Blk) (e c : Nat) : Site :=
  let y := ctxOf b e c
  { e := e, c := c, tw := isTwin b e, kern := decide (c = 4) || bit y.ps 13, pc := wid (isTwin b e) y.pc, cell := 0,
    second := y.sylb, inl := [], inlAt := 0, next := 0, id := 0 }

/-- The cells of the inline operands of one syllable in a code cell, and those before them. -/
def inlineCells (s : Site) (code : Nat) : Nat := inlineOf code * (if s.tw then 2 else 1)

/-- The inline cells of both syllables of a code cell. -/
def allInline (s : Site) (cell : BitVec 14) : List (BitVec 28) :=
  let a := fld cell 7 7
  let n := if isPartner a then 0 else inlineCells s a + inlineCells s (fld cell 0 7)
  (List.range n).map (fun i => s.off s.pc (1 + i))

/-- The site with its code cell decoded. The second syllable of a cell that is illegal as a whole, or that holds a partner
form, is never executed. -/
def decoded (s : Site) (b : Blk) (cell : BitVec 14) : Site :=
  let a := fld cell 7 7
  let p := fld cell 0 7
  let sec := s.second && !(isPartner a) && !(cellIllegal cell)
  let ka := if isPartner a then 0 else inlineCells s a
  let kb := if isPartner a then 0 else inlineCells s p
  let first := s.off s.pc (1 + (if sec then ka else 0))
  let n := if sec then kb else ka
  { s with
    cell := cell, second := sec, id := sylId cell sec, next := s.off s.pc (1 + ka + kb), inlAt := first,
    inl := (List.range n).map (fun i => match pfAt b s.e (s.off first i) with
      | some q => q.c
      | none => absentCell) }

/-- The cell has inline operands (R292). -/
def Site.hasInline (s : Site) : Bool := decide (0 < inlineOf (fld s.cell 7 7) + inlineOf (fld s.cell 0 7)) && !(isPartner (fld s.cell 7 7))

/-! Pairing (R294). Classes: 0 S, 1 A, 2 P, 3 M, 4 C, 5 X, 6 F, 7 Y. -/

def pairClass (code : Nat) : Nat :=
  if code < 0x10 then 0 else if code < 0x30 then 1 else if code < 0x40 then 3 else if code < 0x50 then 4
  else if code < 0x60 then 5 else if code < 0x72 then 2 else if 0x77 ≤ code ∧ code ≤ 0x7B then 6 else 7

/-- The syllable reads the top data cell, which the one before pushed; OVER reads the second alone. -/
def readsTop (code : Nat) : Bool :=
  (decide (1 ≤ code) && decide (code ≤ 0x0A) && decide (code ≠ 4)) || decide (code = 0x0D) || (decide (0x10 ≤ code) && decide (code < 0x40)) ||
  [0x41, 0x42, 0x45, 0x46, 0x4C].contains code || (decide (0x50 ≤ code) && decide (code ≤ 0x55)) ||
  decide (code = 0x5D) || decide (code = 0x77)

/-- A load, and a long operation with a data result (notes 1 and 2 of R294). -/
def isLoad (code : Nat) : Bool := [0x30, 0x32, 0x34, 0x36, 0x38, 0x3C, 0x3E].contains code
def dataLong (code : Nat) : Bool := (decide (0x50 ≤ code) && decide (code ≤ 0x55)) || code == 0x5B || code == 0x5C
/-- Syllables that push two cells, or leave two places pending: LDI, LDP, MUL, MULU, DIV, DIVU. -/
def pushesTwo (code : Nat) : Bool := [0x32, 0x34, 0x50, 0x51, 0x52, 0x53].contains code
/-- Syllable B with code p reads a cell that A, with code a, pushes. -/
def readsPushed (a p : Nat) : Bool := readsTop p || (p == 4 && pushesTwo a)
def floatLong (code : Nat) : Bool := decide (0x56 ≤ code) && decide (code ≤ 0x5F)

/-- Syllables A and B of a cell issue in one cycle (R294). -/
def pairsUp (a p : Nat) : Bool :=
  let x := pairClass a
  let y := pairClass p
  if x = 7 ∨ y = 7 then false
  else if x = y ∧ 3 ≤ x then false
  else if x = 3 then !(isLoad a && readsPushed a p && decide (y ≠ 2) && decide (y ≠ 6))
  else if x = 5 then !(dataLong a && readsPushed a p && decide (y ≠ 2) && decide (y ≠ 6)) && !(floatLong a && decide (y = 6))
  else !(decide (x = 6) && decide (y = 5) && floatLong p)

/-! Commits. -/

/-- The ledger class of a committed syllable by its number; none where its accesses or cycles are debited instead (R373). -/
def baseClass (id : Nat) (taken : Bool) : Option Nat :=
  if id < 0x10 then some 0
  else if id < 0x30 then some 1
  else if id < 0x40 then none
  else if id < 0x50 then some (if taken ∨ id = 0x4B then 9 else 8)
  else if id < 0x52 then some 12
  else if id < 0x54 then none
  else if id < 0x56 then some 14
  else if id = 0x58 then some 16
  else if id = 0x59 ∨ id = 0x5A then none
  else if id < 0x60 then some 15
  else if id < 0x72 then some 2
  else if 0x77 ≤ id ∧ id ≤ 0x7B then some 11
  else if id < 128 then some 10
  else if id < 138 then none
  else if id < 150 ∨ id = 154 then some 10
  else if id < 165 then some 1
  else some 14

/-- A step of debug ends (R539): the context to resume is shown, 7 when none is runnable. Within a locked sequence there is no boundary, and
the halt waits for its end (R214, R231, R536). -/
def endStep (e : Nat) (b : Blk) : Blk :=
  if (engOf b e).stepping then
    if lockHeld b e then onEng e (fun x => { x with halted := false, stepping := false, haltReq := some 2 }) b
    else
    let b := match (engOf b e).run, pick b e with
      | none, some (c, false) => switchIn e c b
      | _, _ => b
    haltNow e 2 b
  else b

/-- The sequence of the context ends once it has stored n cells into its range, whose stores drain as it ends (R232). -/
def lockStored (s : Site) (b : Blk) : Blk :=
  match lockOf b s.e s.c with
  | none => b
  | some k => if 0 < k.stored ∧ k.n ≤ k.stored then endLock s.e s.c ((drainAll s.e b).getD b) else b

/-- The count of the syllables committed in a locked sequence, and its ends by count (R232). -/
def lockCount (s : Site) (b : Blk) : Blk :=
  match lockOf b s.e s.c with
  | none => b
  | some k =>
    if s.id = 0x3D then b
    else if 16 ≤ k.syls + 1 then endLock s.e s.c ((drainAll s.e b).getD b)
    else lockStored s (onEng s.e (fun x => { x with locks := x.locks.map (fun y => if y.ctx = s.c then { y with syls := y.syls + 1 } else y) }) b)

/-- A boundary or commit point is reached: what the window gave is used, the field cycle ends, and the cycle counter moves on (R213,
R368, R372). -/
def spent (s : Site) (b : Blk) : Blk :=
  let b := starveCount s.field (cycleEnd s.field (clearGot s.e b))
  if bit (reg b (aE s.e 0x00)) 0 then
    let n := takeFree b
    onEng s.e (fun x => { x with cyc := x.cyc + Config.freeCycles n.1 }) n.2
  else b

/-- The context has committed a syllable: its LASTRUN is 0 (R395). -/
def ranNow (s : Site) (b : Blk) : Blk := spent s (onEng s.e (fun x => { x with last := upd (fun _ => 0) x.last s.c }) b)

/-- The debits owed for the cell's fetch are made as its first syllable commits (R373). -/
def payOwed (s : Site) (b : Blk) : Blk :=
  match (engOf b s.e).owed with
  | [] => b
  | ks => onEng s.e (fun x => { x with owed := [] }) (each (pay s) ks b)

/-- The debit of a committed syllable, where it has a class of its own (R373). -/
def payBase (s : Site) (taken : Bool) (b : Blk) : Blk :=
  match baseClass s.id taken with
  | some k => pay s k b
  | none => b

/-- What every committed syllable does (R232, R373, R395, R546). -/
def committed (s : Site) (taken : Bool) (b : Blk) : Blk := lockCount s (dwCount s (ranNow s (payBase s taken (payOwed s b))))

/-- The context goes on at another cell. -/
def goTo (s : Site) (t : BitVec 28) (sylb : Bool) (b : Blk) : Blk :=
  onEng s.e (fun x => { x with pf := [], pairB := false })
    (onCtx s.e s.c (fun y => { y with pc := s.addr t, sylb := sylb }) b)

/-- The context goes on after its syllable: at syllable B, or at the next cell. -/
def goOn (s : Site) (b : Blk) : Blk :=
  if s.second ∨ isPartner (fld s.cell 7 7) then
    onEng s.e (fun x => { x with pairB := false }) (onCtx s.e s.c (fun y => { y with pc := s.next, sylb := false }) b)
  else
    onEng s.e (fun x => { x with pairB := pairsUp (fld s.cell 7 7) (fld s.cell 0 7) })
      (onCtx s.e s.c (fun y => { y with sylb := true }) b)

/-- Where the syllable after this one stands: its cell and SYLB. -/
def after (s : Site) : BitVec 28 × Bool :=
  if s.second ∨ isPartner (fld s.cell 7 7) then (s.next, false) else (s.pc, true)

/-- The outcome of a syllable becomes the state (R205, R217, R539). A step takes in a pair, and the cells of an inline
operand. -/
def finish (s : Site) : Rs → Blk
  | .done b =>
    let b := goOn s (committed s false b)
    if (engOf b s.e).pairB ∨ (s.hasInline = true ∧ s.second = false) then b else endStep s.e b
  | .jump t b => endStep s.e (goTo s t false (committed s true b))
  | .leave b => endStep s.e (onEng s.e (fun x => { x with pairB := false }) (committed s false b))
  | .part b => endStep s.e (onEng s.e (fun x => { x with pairB := false }) (spent s (lockStored s b)))
  | .trap k i b => endStep s.e (takeTrap s k i b)
  | .wait b => b
  | .check k a n b => machineCheck s.e k a n 509 b

/-! A syllable. -/

/-- What the manual gives a syllable: the cells it takes from and leaves on each stack; whether it is a float syllable, is for
the kernel; the PS flags it reads or writes; its illegal uses and privileges (causes 3 and 4); the data and return operands that bite,
with their kinds (R203); its further checks (causes 4, 5, 8, 9); and its work. -/
structure Syl where
  din : Nat := 0
  dout : Nat := 0
  rin : Nat := 0
  rout : Nat := 0
  fin : Nat := 0
  fout : Nat := 0
  float : Bool := false
  kernel : Bool := false
  flags : BitVec 14 := 0
  bad : Site → Blk → Option (Nat × BitVec 28) := fun _ _ => none
  poi : List (Nat × Nat) := []
  rpoi : List (Nat × Nat) := []
  chk : Site → Blk → Chk := fun _ b => .ok b
  body : Site → Blk → Rs

/-- The data operand i, counted from the top, and a return and a float operand. -/
def Site.arg (s : Site) (b : Blk) (i : Nat) : SCell := nth emptyPlace (s.ctx b).data i
def Site.rarg (s : Site) (b : Blk) (i : Nat) : SCell := nth emptyPlace (s.ctx b).ret i
def Site.farg (s : Site) (b : Blk) (i : Nat) : SCell := nth emptyPlace (engOf b s.e).fst i

/-- The first operand in a list that bites, among those present: its kind (R203). -/
def biteIn (l : List SCell) (ps : List (Nat × Nat)) : Option Nat :=
  (ps.find? (fun p => (match l[p.1]? with
    | some c => c.p
    | none => false))).map (fun p => p.2)

/-- The operands that bite, among those in the caches. -/
def chkBites (s : Site) (y : Syl) (b : Blk) : Chk :=
  match biteIn (s.ctx b).data y.poi with
  | some k => .trap 5 (BitVec.ofNat 28 k) b
  | none =>
    match biteIn (s.ctx b).ret y.rpoi with
    | some k => .trap 5 (BitVec.ofNat 28 k) b
    | none => .ok b

/-- The checks on the operands that are in the caches: illegal uses, privilege, then bites, the lowest cause first (R205). -/
def chkOperands (s : Site) (y : Syl) (b : Blk) : Chk :=
  if y.float ∧ s.c = 4 then .trap 3 s.sylInfo b
  else
    match y.bad s b with
    | some (k, i) => if k ≠ 3 ∧ y.kernel ∧ s.kern = false then .trap 4 s.sylInfo b else .trap k i b
    | none => if y.kernel ∧ s.kern = false then .trap 4 s.sylInfo b else chkBites s y b

/-- The float stack is available and deep enough (R193, R240). -/
def chkFloat (s : Site) (y : Syl) (b : Blk) : Chk :=
  if y.float = false then .ok b
  else
    let n := (engOf b s.e).fst.length
    if psFPA (s.ctx b) = false then .trap 12 (BitVec.ofNat 28 (fld (reg b (aE s.e 0x00)) 8 3)) b
    else if n < y.fin ∨ 4 < n - y.fin + y.fout then .trap 13 (BitVec.ofNat 28 n) b
    else .ok b

/-- The data stack cannot supply the operands or take the results: the lower causes 6 and 10 come before 12 and 13. -/
def dataFails (s : Site) (y : Syl) (b : Blk) : Bool :=
  let x := s.ctx b
  let k := s.words
  decide (x.data.length + (x.dsp.toNat - x.dbase.toNat) / k < y.din) ||
  decide (capData s.c + (x.dlim.toNat - x.dsp.toNat) / k + y.din < x.data.length + y.dout)

/-- A long operation whose places or flags the syllable meets (R305, R306), by whether it takes a pending data place, and a pending float
entry. -/
def lopBlocks (s : Site) (y : Syl) (data float : Bool) (o : LOp) : Bool :=
  (data && lopData s.c o) || (float && !(o.fres.isEmpty)) || lopFlags s.c y.flags o

/-- Wait for the long operations whose places or flags the syllable meets (R305, R306). -/
def meetPending (s : Site) (y : Syl) (b : Blk) : Blk :=
  settleLast (lopBlocks s y (((s.ctx b).data.take y.din).any (fun c => c.pend))
    (y.float && ((engOf b s.e).fst.take y.fin).any (fun c => c.pend))) s.e b

/-- Everything before a syllable's work, in the order of the causes (R205): what its cached operands show, the float stack,
fills, then what every operand shows, then spills. -/
def prepare (s : Site) (y : Syl) (b : Blk) : Chk :=
  let b := meetPending s y b
  (chkOperands s y b).next (fun b =>
  (if dataFails s y b then .ok b else chkFloat s y b).next (fun b =>
  (needData s y.din b).next (fun b =>
  (needRet s y.rin b).next (fun b =>
  (chkOperands s y b).next (fun b =>
  (y.chk s b).next (fun b =>
  (roomData s y.din y.dout b).next (fun b =>
  (roomRet s y.rin y.rout b).next (chkFloat s y))))))))

/-- What a fetch that finds no cell in the prefetch buffer meets: another's held range, the regions, or no source (R200, R231,
R405). -/
def fetchStop (s : Site) (a : BitVec 28) (b : Blk) : Chk :=
  match fetchMem s b a with
  | some m =>
    if fetchHeld s b m then meetsHeld s b
    else
      match m with
      | .fieldMem f off => .trap 1 a (recordDeny f off 2 (locOf s.e) b)
      | _ => .trap 1 a b
  | none => .trap 1 a b

/-- Every inline cell of the syllable is there and clean, or the lowest trap its fetch takes (R200, R205, R216). -/
def chkInline (s : Site) (b : Blk) : Chk :=
  let as := (List.range s.inl.length).map (fun i => s.off s.inlAt i)
  match as.find? (fun a => (pfAt b s.e a).isNone) with
  | some a => fetchStop s a b
  | none =>
    match as.find? (fun a => (pfAt b s.e a).any (fun q => q.c.p)) with
    | some a => .trap 2 a b
    | none => .ok b

/-- The syllable's own checks and work, and what its outcome leaves. -/
def carryOut (s : Site) (y : Syl) (b : Blk) : Blk := finish s ((chkInline s b).next (prepare s y) |>.then (y.body s))

/-- The syllable at its site executes, its routine's path permitting (R431 to R434, R437). -/
def perform (s : Site) (y : Syl) (b : Blk) : Blk :=
  match micro b s.field (microEntry s) with
  | .fine => carryOut s y b
  | .idle => (takeFree b).2
  | .check k a n after => machineCheck s.e k a n 509 (if after then carryOut s y b else b)

/-- The comparators that match the cell about to issue (R543, R334). -/
def iacHits (s : Site) (b : Blk) : List Nat :=
  let a := if s.tw then (if codeBase s.e ≤ s.pc.toNat ∧ s.pc.toNat < codeBase s.e + 0x2000 then some (s.pc.toNat - codeBase s.e) else none)
    else some s.pc.toNat
  if bit (reg b (aE s.e 0x33)) (9 + s.c) then
    (List.range (b.cfg.ncomp + 1)).filter (fun k => bit (reg b (aE s.e 0x30)) (6 + k) &&
      (match a with
       | some x => decide (x = (reg b (aE s.e (0x34 + k))).toNat)
       | none => false))
  else []

/-- A cell that issues for the first time meets the comparators (R544): packets, and a request to halt before it. -/
def compare (s : Site) (b : Blk) : Blk :=
  let x := engOf b s.e
  let b := onEng s.e (fun x => { x with skipCmp := false }) b
  let ks := if x.skipCmp then [] else iacHits s b
  match ks with
  | [] => b
  | k :: _ =>
    let act := fld (reg b (aE s.e 0x31)) 12 2
    let b := if act = 0 then b
      else each (fun k b => traceField s.field (fieldPacket b 1 s.field (locOf s.e) k (clean (lo14 s.pc))) b) ks b
    if act = 1 then b
    else
      let b := setReg (aE s.e 0x31) (putf (reg b (aE s.e 0x31)) 5 3 k) b
      onEng s.e (fun x => { x with haltReq := some 3 }) b

/-- The cell is fetched (R200): the site with its cell, or a trap that any syllable meets there. -/
def fetchCell (s : Site) (b : Blk) : Sum Chk (Site × Bool) :=
  match pfAt b s.e s.pc with
  | some q => if q.c.p then .inl (.trap 2 s.pc (if q.seen then b else countIssue s [] b)) else .inr (decoded s b q.c.v, q.seen)
  | none => .inl (fetchStop s s.pc b)

/-- The engine may issue: it runs, waits for nothing, and no halt is due at this boundary (R231, R536). -/
def mayIssue (b : Blk) (e : Nat) : Bool :=
  let x := engOf b e
  engRuns b e && decide (x.hmNeed ≤ x.hmGot.length) &&
  ((haltDue b e).isNone || lockHeld b e || x.pairB || decide (0 < x.hmNeed) || x.entry.isSome)

/-- The choice of R369 was made, so that a turn that had ended gives way to a new one. -/
def newTurn (e : Nat) (b : Blk) : Blk :=
  let x := engOf b e
  if x.run = some 4 ∨ x.pairB = true ∨ 0 < x.hmNeed ∨ x.slot.isSome = true ∨ lockHeld b e = true then b
  else onEng e (fun x => { x with turnOver := false }) b

/-- The row of the table that a syllable belongs to: the sixteen small literals are one (R241). -/
def rowOf (id : Nat) : Nat := if 0x60 ≤ id ∧ id < 0x70 then 0x60 else id

/-- What an engine meets at its next boundary: something that happens whatever syllable is expected (a fetch trap, a wait, or
nothing); a debug halt before the cell of a syllable; or a syllable about to execute, its cell's fetch counted. -/
inductive Arrival where
  | settled (b : Blk)
  | halts (id : Nat) (b : Blk)
  | here (s : Site) (b : Blk)
deriving DecidableEq, Repr

/-- The cell at a site issues: it meets the comparators and a pending halt once, and its fetch is counted once. -/
def issueCell (s : Site) (seen : Bool) (b1 : Blk) : Arrival :=
  let b2 := if seen then b1 else compare s b1
  if seen = false ∧ (haltDue b2 s.e).isSome = true ∧ lockHeld b2 s.e = false ∧ (engOf b2 s.e).hmNeed = 0 then .halts (rowOf s.id) b2
  else .here s (if seen then b2 else countIssue s (allInline s s.cell) b2)

/-- Where engine e arrives at the next syllable of context c, which runs. -/
def arriveIn (e c : Nat) (b : Blk) : Arrival :=
  let s := siteAt b e c
  let b1 := prefetchAll s b
  match fetchCell s b1 with
  | .inl (.trap k i b2) => .settled (finish s (.trap k i b2))
  | .inl (.wait b2) => .settled b2
  | .inl (.check _ _ _ b2) => .settled b2
  | .inl (.ok b2) => .settled b2
  | .inl (.part b2) => .settled b2
  | .inr (s, seen) => issueCell s seen b1

/-- Where engine e arrives at its next syllable. -/
def arrive (e : Nat) (b : Blk) : Arrival :=
  if mayIssue b e = false then .settled b
  else
    match pick b e with
    | some (c, false) =>
      match (if (engOf b e).run = some c then .fine else micro b (fldOf e) (seqEntry .switch)) with
      | .check k a n _ => .settled (machineCheck e k a n 509 b)
      | .idle => .settled b
      | .fine => arriveIn e c (switchIn e c (newTurn e b))
    | _ => .settled b

/-- Engine e issues its next syllable, which is the one with the number `id` (a command for another syllable is no event). A
fetch trap is taken whatever syllable was expected. -/
def syllable (id : Nat) (y : Syl) (e : Nat) (b : Blk) : Blk :=
  let b := overrunIfLate (fldOf e) b
  match arrive e b with
  | .settled b1 => b1
  | .halts k b1 => if k = id then b1 else b
  | .here s b1 => if rowOf s.id = id then perform s y b1 else b

end Sys2Proof.Machine
end

