-- ==== Sys2Proof/Machine/Alu.lean ====
section
/-! DEFINITION. The stack syllables (R224), the ALU syllables and the extended operations of class A (R225, R226, R252, R253,
R246, R204, R257 to R259), and the literals (R241, R216). -/

namespace Sys2Proof.Machine

/-! Shared shapes. -/

/-- Replace the n top data cells by a list, top first. -/
def putData (s : Site) (n : Nat) (l : List SCell) (b : Blk) : Blk :=
  onCtx s.e s.c (fun y => { y with data := l ++ y.data.drop n }) b

/-- The same for the return stack. -/
def putRet (s : Site) (n : Nat) (l : List SCell) (b : Blk) : Blk :=
  onCtx s.e s.c (fun y => { y with ret := l ++ y.ret.drop n }) b

/-- A syllable that rearranges the n top cells, leaving m (R192). -/
def shuffle (n m : Nat) (g : List SCell → List SCell) : Syl :=
  { din := n, dout := m, body := fun s b => .done (putData s n (g ((s.ctx b).data.take n)) b) }

/-- A syllable of one operand, with no flag; its result carries the operand's P (R202). -/
def unary (g : Bool → BitVec 28 → BitVec 28) : Syl :=
  { din := 1, dout := 1, body := fun s b =>
      let x := s.arg b 0
      .done (putData s 1 [scP (wid s.tw (g s.tw x.v)) x.p] b) }

/-- A syllable ( a b -- r ) with no flag. -/
def binary (g : Bool → BitVec 28 → BitVec 28 → BitVec 28) : Syl :=
  { din := 2, dout := 1, body := fun s b =>
      let x := s.arg b 1
      let y := s.arg b 0
      .done (putData s 2 [scP (wid s.tw (g s.tw x.v y.v)) (x.p || y.p)] b) }

/-- A result with the flags it writes, and whether V is set with them. -/
structure Arith where
  r : BitVec 28
  fl : FlagSet
  v : Bool

/-- A syllable that writes flags from n operands, top first: with TV set it traps where V would be set (R225, R258). `cin`
says that it reads C: then PF taints it (R184). -/
def arith (n : Nat) (cin : Bool) (g : Bool → Nat → List (BitVec 28) → Bool → Arith) : Syl :=
  { din := n, dout := 1, flags := 0x26, body := fun s b =>
      let y := s.ctx b
      let l := y.data.take n
      let p := l.any (fun c => c.p) || (cin && psPF y)
      let x := g s.tw (b2n (psC y)) (l.map (fun c => c.v)) p
      if x.v && psTV y then .trap 15 0 b
      else .done (onCtx s.e s.c (putFlags x.fl) (putData s n [scP (wid s.tw x.r) p] b)) }

def arg0 (l : List (BitVec 28)) : BitVec 28 := nth 0 l 0
def arg1 (l : List (BitVec 28)) : BitVec 28 := nth 0 l 1

/-- A sum or difference with C and V (R257), and a result with V alone. -/
def withCV (tw : Bool) (n : Int) (c p : Bool) : Arith :=
  { r := ofInt tw n, fl := flagCV c (!(inRange tw n)) p, v := !(inRange tw n) }
def withV (tw : Bool) (n : Int) (r : BitVec 28) (p : Bool) : Arith :=
  { r := r, fl := flagV (!(inRange tw n)) p, v := !(inRange tw n) }

def flag1 (x : Bool) : BitVec 28 := if x then 1 else 0

/-! Stack syllables (R224). -/

def execNop (e : Nat) (s : State) := run (syllable 0x00 { body := fun _ b => .done b } e) s
def execDup (e : Nat) (s : State) :=
  run (syllable 0x01 (shuffle 1 2 (fun l => match l with
    | [a] => [a, a]
    | l => l)) e) s
def execDrop (e : Nat) (s : State) := run (syllable 0x02 (shuffle 1 0 (fun _ => [])) e) s
def execSwap (e : Nat) (s : State) :=
  run (syllable 0x03 (shuffle 2 2 (fun l => match l with
    | [b, a] => [a, b]
    | l => l)) e) s
def execOver (e : Nat) (s : State) :=
  run (syllable 0x04 (shuffle 2 3 (fun l => match l with
    | [b, a] => [a, b, a]
    | l => l)) e) s
def execRot (e : Nat) (s : State) :=
  run (syllable 0x05 (shuffle 3 3 (fun l => match l with
    | [c, b, a] => [a, c, b]
    | l => l)) e) s
def execNip (e : Nat) (s : State) := run (syllable 0x06 (shuffle 2 1 (fun l => l.take 1)) e) s
def execTuck (e : Nat) (s : State) :=
  run (syllable 0x07 (shuffle 2 3 (fun l => match l with
    | [b, a] => [b, a, b]
    | l => l)) e) s
def execDup2 (e : Nat) (s : State) :=
  run (syllable 0x08 (shuffle 2 4 (fun l => match l with
    | [b, a] => [b, a, b, a]
    | l => l)) e) s
def execDrop2 (e : Nat) (s : State) := run (syllable 0x09 (shuffle 2 0 (fun _ => [])) e) s

def torSyl : Syl :=
  { din := 1, rout := 1, body := fun s b => .done (putRet s 0 [s.arg b 0] (putData s 1 [] b)) }
def fromrSyl : Syl :=
  { rin := 1, dout := 1, body := fun s b => .done (putData s 0 [s.rarg b 0] (putRet s 1 [] b)) }
def rfetchSyl : Syl :=
  { rin := 1, rout := 1, dout := 1, body := fun s b => .done (putData s 0 [s.rarg b 0] b) }
def rdropSyl : Syl := { rin := 1, body := fun s b => .done (putRet s 1 [] b) }

def execTor (e : Nat) (s : State) := run (syllable 0x0A torSyl e) s
def execFromr (e : Nat) (s : State) := run (syllable 0x0B fromrSyl e) s
def execRfetch (e : Nat) (s : State) := run (syllable 0x0C rfetchSyl e) s
def execRdrop (e : Nat) (s : State) := run (syllable 0x0F rdropSyl e) s

/-- PICK: where xn stands in the spill area, with the number of spilled cells it takes, when it is not cached (R224). -/
def pickSpilled (s : Site) (b : Blk) : Option Nat :=
  let y := s.ctx b
  let n := uval s.tw (s.arg b 0).v
  if n + 1 < y.data.length then none else some (n + 2 - y.data.length)

def pickSyl : Syl :=
  { din := 1, dout := 1, poi := [(0, 7)]
    chk := fun s b =>
      let y := s.ctx b
      match pickSpilled s b with
      | none => .ok (if (s.arg b (uval s.tw (s.arg b 0).v + 1)).pend then settleLast (lopData s.c) s.e b else b)
      | some j =>
        if s.c = 4 ∨ y.dsp.toNat < y.dbase.toNat + j * s.words then .trap 6 y.dbase b
        else readyRead s false [wid s.tw (y.dsp - BitVec.ofNat 28 (j * s.words))] b
    body := fun s b =>
      match pickSpilled s b with
      | none => .done (putData s 1 [s.arg b (uval s.tw (s.arg b 0).v + 1)] b)
      | some j =>
        let a := wid s.tw ((s.ctx b).dsp - BitVec.ofNat 28 (j * s.words))
        let x := readCell s false a b
        .done (payAccess s [readClass s b a] (putData s 1 [x.1] x.2)) }

def execPick (e : Nat) (s : State) := run (syllable 0x0D pickSyl e) s

def depthSyl : Syl :=
  { dout := 1, body := fun s b =>
      let y := s.ctx b
      let d := BitVec.ofNat 28 y.data.length + (if s.c = 4 then 0 else y.dsp - y.dbase)
      .done (putData s 0 [sc (wid s.tw d)] b) }

def execDepth (e : Nat) (s : State) := run (syllable 0x0E depthSyl e) s

/-! ALU syllables (R225, R257). -/

def addSyl : Syl := arith 2 false (fun w _ l p =>
  withCV w (sval w (arg1 l) + sval w (arg0 l)) (decide (umod w ≤ uval w (arg1 l) + uval w (arg0 l))) p)
def subSyl : Syl := arith 2 false (fun w _ l p =>
  withCV w (sval w (arg1 l) - sval w (arg0 l)) (decide (uval w (arg1 l) < uval w (arg0 l))) p)
def adcSyl : Syl := arith 2 true (fun w c l p =>
  withCV w (sval w (arg1 l) + sval w (arg0 l) + c) (decide (umod w ≤ uval w (arg1 l) + uval w (arg0 l) + c)) p)
def sbcSyl : Syl := arith 2 true (fun w c l p =>
  withCV w (sval w (arg1 l) - sval w (arg0 l) - c) (decide (uval w (arg1 l) < uval w (arg0 l) + c)) p)
def negSyl : Syl := arith 1 false (fun w _ l p => withV w (-(sval w (arg0 l))) (ofInt w (-(sval w (arg0 l)))) p)
def incSyl : Syl := arith 1 false (fun w _ l p => withV w (sval w (arg0 l) + 1) (ofInt w (sval w (arg0 l) + 1)) p)
def decSyl : Syl := arith 1 false (fun w _ l p => withV w (sval w (arg0 l) - 1) (ofInt w (sval w (arg0 l) - 1)) p)
def absSyl : Syl := arith 1 false (fun w _ l p =>
  withV w ((sval w (arg0 l)).natAbs : Int) (ofInt w ((sval w (arg0 l)).natAbs : Int)) p)
def sataddSyl : Syl := arith 2 false (fun w _ l p =>
  let n := sval w (arg1 l) + sval w (arg0 l)
  withV w n (ofInt w (clampW w n)) p)
def satsubSyl : Syl := arith 2 false (fun w _ l p =>
  let n := sval w (arg1 l) - sval w (arg0 l)
  withV w n (ofInt w (clampW w n)) p)
def mulloSyl : Syl := arith 2 false (fun w _ l p =>
  let n := sval w (arg1 l) * sval w (arg0 l)
  withV w n (ofInt w n) p)

def execAdd (e : Nat) (s : State) := run (syllable 0x10 addSyl e) s
def execSub (e : Nat) (s : State) := run (syllable 0x11 subSyl e) s
def execAdc (e : Nat) (s : State) := run (syllable 0x12 adcSyl e) s
def execSbc (e : Nat) (s : State) := run (syllable 0x13 sbcSyl e) s
def execAnd (e : Nat) (s : State) := run (syllable 0x14 (binary (fun _ a b => a &&& b)) e) s
def execOr (e : Nat) (s : State) := run (syllable 0x15 (binary (fun _ a b => a ||| b)) e) s
def execXor (e : Nat) (s : State) := run (syllable 0x16 (binary (fun _ a b => a ^^^ b)) e) s
def execNot (e : Nat) (s : State) := run (syllable 0x17 (unary (fun _ a => ~~~a)) e) s
def execNeg (e : Nat) (s : State) := run (syllable 0x18 negSyl e) s
def execInc (e : Nat) (s : State) := run (syllable 0x19 incSyl e) s
def execDec (e : Nat) (s : State) := run (syllable 0x1A decSyl e) s
def execAbs (e : Nat) (s : State) := run (syllable 0x29 absSyl e) s
def execSatadd (e : Nat) (s : State) := run (syllable 0x2A sataddSyl e) s
def execSatsub (e : Nat) (s : State) := run (syllable 0x2B satsubSyl e) s
def execMullo (e : Nat) (s : State) := run (syllable 0x2E mulloSyl e) s

/-! Shifts (R226). -/

/-- A shift left, right and arithmetic right of a by n: the result and C. -/
def shiftL (w : Bool) (a : BitVec 28) (n : Nat) : BitVec 28 × Bool :=
  (if n < wbits w then ofNatW w (uval w a * 2 ^ n) else 0,
   decide (1 ≤ n) && decide (n ≤ wbits w) && bit a (wbits w - n))
def shiftR (w : Bool) (a : BitVec 28) (n : Nat) : BitVec 28 × Bool :=
  (if n < wbits w then ofNatW w (uval w a / 2 ^ n) else 0, decide (1 ≤ n) && decide (n ≤ wbits w) && bit a (n - 1))
def shiftA (w : Bool) (a : BitVec 28) (n : Nat) : BitVec 28 × Bool :=
  let neg := decide (sval w a < 0)
  if n < wbits w then (ofInt w (sval w a / (2 ^ n : Nat)), decide (1 ≤ n) && bit a (n - 1))
  else (ofInt w (if neg then -1 else 0), neg)

/-- A shift syllable: it writes C alone. -/
def shift (g : Bool → BitVec 28 → Nat → BitVec 28 × Bool) : Syl :=
  arith 2 false (fun w _ l p =>
    let x := g w (arg1 l) (uval w (arg0 l))
    { r := x.1, fl := flagC x.2 p, v := false })
def shift1 (g : Bool → BitVec 28 → Nat → BitVec 28 × Bool) : Syl :=
  arith 1 false (fun w _ l p =>
    let x := g w (arg0 l) 1
    { r := x.1, fl := flagC x.2 p, v := false })

/-- A rotation left by n places. -/
def rotate (w : Bool) (a : BitVec 28) (n : Nat) : BitVec 28 :=
  let k := n % wbits w
  ofNatW w (uval w a * 2 ^ k + uval w a / 2 ^ (wbits w - k))

def execShl (e : Nat) (s : State) := run (syllable 0x1B (shift shiftL) e) s
def execShr (e : Nat) (s : State) := run (syllable 0x1C (shift shiftR) e) s
def execSar (e : Nat) (s : State) := run (syllable 0x1D (shift shiftA) e) s
def execRol (e : Nat) (s : State) := run (syllable 0x1E (binary (fun w a n => rotate w a (uval w n))) e) s
def execRor (e : Nat) (s : State) :=
  run (syllable 0x1F (binary (fun w a n => rotate w a (wbits w - uval w n % wbits w))) e) s
def execShl1 (e : Nat) (s : State) := run (syllable 0x20 (shift1 shiftL) e) s
def execShr1 (e : Nat) (s : State) := run (syllable 0x21 (shift1 shiftR) e) s

/-! Comparisons and the rest (R225). -/

def execEq (e : Nat) (s : State) := run (syllable 0x22 (binary (fun w a b => flag1 (decide (uval w a = uval w b)))) e) s
def execLt (e : Nat) (s : State) := run (syllable 0x23 (binary (fun w a b => flag1 (decide (sval w a < sval w b)))) e) s
def execUlt (e : Nat) (s : State) := run (syllable 0x24 (binary (fun w a b => flag1 (decide (uval w a < uval w b)))) e) s
def execGt (e : Nat) (s : State) := run (syllable 0x25 (binary (fun w a b => flag1 (decide (sval w b < sval w a)))) e) s
def execZeq (e : Nat) (s : State) := run (syllable 0x26 (unary (fun w a => flag1 (decide (uval w a = 0)))) e) s
def execMin (e : Nat) (s : State) := run (syllable 0x27 (binary (fun w a b => if sval w a ≤ sval w b then a else b)) e) s
def execMax (e : Nat) (s : State) := run (syllable 0x28 (binary (fun w a b => if sval w a ≤ sval w b then b else a)) e) s
def execClz (e : Nat) (s : State) :=
  run (syllable 0x2C (unary (fun w a => BitVec.ofNat 28 (wbits w - bitlen (uval w a)))) e) s
def execPopc (e : Nat) (s : State) := run (syllable 0x2D (unary (fun w a => BitVec.ofNat 28 (ones (wid w a)))) e) s
def execSext7 (e : Nat) (s : State) := run (syllable 0x2F (unary (fun _ a => (a.extractLsb' 0 7).signExtend 28)) e) s

/-! Extended operations of class A (R204, R246, R252, R253). In a pair they work on bits 13:0 as cells, with bits 27:14 zero
in the result, but for PTEST, PCLR, BITREV and PARITY, which work on the whole cell (log entry 33). -/

/-- PTEST ( a -- a flag ): the flag is clean. -/
def ptestSyl : Syl :=
  { din := 1, dout := 2, body := fun s b => .done (putData s 0 [sc (flag1 (s.arg b 0).p)] b) }
/-- PCLR clears P, and in C0 the slot-poison flag (R204, R42). -/
def pclrSyl : Syl :=
  { din := 1, dout := 1, body := fun s b =>
      .done (onCtx s.e s.c (fun y => if s.c = 0 then { y with spois := false } else y) (putData s 1 [sc (s.arg b 0).v] b)) }

/-- The reversal of the bits of a cell. -/
def bitrev (w : Bool) (a : BitVec 28) : BitVec 28 :=
  BitVec.ofNat 28 (sumN ((List.range (wbits w)).map (fun i => b2n (bit a i) * 2 ^ (wbits w - 1 - i))))

/-- One step of R253 per bit of x, from bit 13 down. -/
def crcStep (c p x : BitVec 14) : BitVec 14 :=
  (List.range 14).foldl (fun c i =>
    let fb := bit c 13 != bit x (13 - i)
    let c := c <<< 1
    if fb then c ^^^ p else c) c

/-- CRCSTEP ( c p x -- c' ). -/
def crcstepSyl : Syl :=
  { din := 3, dout := 1, body := fun s b =>
      let x := s.arg b 0
      let p := s.arg b 1
      let c := s.arg b 2
      .done (putData s 3 [scP ((crcStep (lo14 c.v) (lo14 p.v) (lo14 x.v)).setWidth 28) (c.p || p.p || x.p)] b) }

def execPtest (e : Nat) (s : State) := run (syllable (128 + 0x18) ptestSyl e) s
def execPclr (e : Nat) (s : State) := run (syllable (128 + 0x19) pclrSyl e) s
def execCompand (e : Nat) (s : State) :=
  run (syllable (128 + 0x20) (unary (fun _ a => BitVec.ofNat 28 (compandOf (lo14 a).toNat))) e) s
def execExpand (e : Nat) (s : State) :=
  run (syllable (128 + 0x21) (unary (fun _ a => BitVec.ofNat 28 (expandOf (fld a 0 10)))) e) s
def execCrcstep (e : Nat) (s : State) := run (syllable (128 + 0x22) crcstepSyl e) s
def execBitrev (e : Nat) (s : State) := run (syllable (128 + 0x23) (unary bitrev) e) s
def execParity (e : Nat) (s : State) := run (syllable (128 + 0x24) (unary (fun w a => flag1 (oddOnes (wid w a)))) e) s

/-! Literals (R216, R241, R323). -/

/-- LIT and LIT2: the inline cells, a pair's two to a cell. -/
def inlineVal (s : Site) (i : Nat) : BitVec 28 :=
  let c (k : Nat) : BitVec 14 := (s.inl.getD k absentCell).v
  if s.tw then pair (c (2 * i)) (c (2 * i + 1)) else (c i).setWidth 28

def litSyl : Syl := { dout := 1, body := fun s b => .done (putData s 0 [sc (inlineVal s 0)] b) }
def lit2Syl : Syl := { dout := 2, body := fun s b => .done (putData s 0 [sc (inlineVal s 1), sc (inlineVal s 0)] b) }

/-- SMALL_LITERAL: syllable 0x60 + k pushes k − 4. -/
def smallSyl : Syl :=
  { dout := 1, body := fun s b => .done (putData s 0 [sc (ofInt s.tw ((s.code : Int) - 0x64))] b) }

def execSmallLiteral (e : Nat) (s : State) := run (syllable 0x60 smallSyl e) s
def execLit (e : Nat) (s : State) := run (syllable 0x70 litSyl e) s
def execLit2 (e : Nat) (s : State) := run (syllable 0x71 lit2Syl e) s

end Sys2Proof.Machine
end

