-- ==== Sys2Proof/Machine/Float.lean ====
section
/-! DEFINITION. The cell floats CF14 and TF28: exact results, rounded once (R274 to R289). -/

namespace Sys2Proof.Machine

/-- A float format: exponent bits and fraction bits (R274). -/
structure Fmt where
  eb : Nat
  fb : Nat
deriving DecidableEq, Repr

def cf14 : Fmt := { eb := 5, fb := 8 }
def tf28 : Fmt := { eb := 8, fb := 19 }
/-- The format that an engine computes in (R290). -/
def fmtOf (tw : Bool) : Fmt := if tw then tf28 else cf14

def Fmt.bias (f : Fmt) : Nat := 2 ^ (f.eb - 1) - 1
def Fmt.emax (f : Fmt) : Nat := 2 ^ f.eb - 1

/-- What an encoding stands for: a NaN and whether it signals, an infinity, or the value (−1)^s × m × 2^e. -/
inductive Fv where
  | nan (signals : Bool)
  | inf (s : Bool)
  | fin (s : Bool) (m : Nat) (e : Int)
deriving DecidableEq, Repr

/-- The value of an encoding (R274). -/
def unpack (f : Fmt) (v : BitVec 28) : Fv :=
  let n := v.toNat % 2 ^ (1 + f.eb + f.fb)
  let s := decide (n / 2 ^ (f.eb + f.fb) = 1)
  let x := n / 2 ^ f.fb % 2 ^ f.eb
  let m := n % 2 ^ f.fb
  if x = f.emax then (if m = 0 then .inf s else .nan (decide (m < 2 ^ (f.fb - 1))))
  else if x = 0 then .fin s m (1 - (f.bias : Int) - f.fb)
  else .fin s (2 ^ f.fb + m) ((x : Int) - f.bias - f.fb)

/-- A result and the FSTATUS flags it raises. -/
structure Fr where
  v : BitVec 28
  fl : BitVec 14
deriving DecidableEq, Repr

/-- An encoding from its sign and its other bits. -/
def signed (f : Fmt) (s : Bool) (n : Nat) : BitVec 28 := BitVec.ofNat 28 (b2n s * 2 ^ (f.eb + f.fb) + n)
def canonNan (f : Fmt) : BitVec 28 := signed f false (f.emax * 2 ^ f.fb + 2 ^ (f.fb - 1))
def infOf (f : Fmt) (s : Bool) : BitVec 28 := signed f s (f.emax * 2 ^ f.fb)
def maxOf (f : Fmt) (s : Bool) : BitVec 28 := signed f s (f.emax * 2 ^ f.fb - 1)
def zeroOf (f : Fmt) (s : Bool) : BitVec 28 := signed f s 0

/-- A magnitude m × 2^−sh rounded to a whole number under a mode (R276), `rest` saying that something below it was cut
off: the number, and whether it differs. Modes: 0 RNE, 1 RTZ, 2 RUP, 3 RDN. -/
def roundAt (rm : Nat) (s : Bool) (m : Nat) (rest : Bool) (sh : Int) : Nat × Bool :=
  if sh ≤ 0 then (m * 2 ^ (-sh).toNat, rest)
  else
    let k := sh.toNat
    let q := m / 2 ^ k
    let r := m % 2 ^ k
    let half := 2 ^ (k - 1)
    let inexact := decide (r ≠ 0) || rest
    let up :=
      if rm = 0 then decide (half < r) || (decide (r = half) && (rest || decide (q % 2 = 1)))
      else if rm = 1 then false
      else if rm = 2 then !s && inexact
      else s && inexact
    (if up then q + 1 else q, inexact)

/-- The value (−1)^s × m × 2^e, m above 0, rounded into a format (R276 to R278). -/
def roundTo (f : Fmt) (rm : Nat) (s : Bool) (m : Nat) (e : Int) (rest : Bool) : Fr :=
  let p := f.fb + 1
  let sh : Int := (bitlen m : Int) - p
  let x := roundAt rm s m rest sh
  let carry := decide (x.1 = 2 ^ p)
  let top : Int := e + bitlen m - 1 + (if carry then 1 else 0)
  let lo : Int := 1 - (f.bias : Int)
  if (f.bias : Int) < top then
    let big := if rm = 0 then true else if rm = 1 then false else if rm = 2 then !s else s
    { v := if big then infOf f s else maxOf f s, fl := fO ||| fX }
  else if e + bitlen m - 1 < lo then
    let y := roundAt rm s m rest (lo - f.fb - e)
    { v := signed f s y.1, fl := if y.2 then (if top < lo then fU ||| fX else fX) else 0 }
  else
    let n := if carry then 2 ^ f.fb else x.1
    { v := signed f s ((top + f.bias).toNat * 2 ^ f.fb + (n - 2 ^ f.fb)), fl := if x.2 then fX else 0 }

/-- The canonical NaN that NaN operands give, with I for a signalling one (R275). -/
def nanOf (f : Fmt) (l : List Fv) : Fr := { v := canonNan f, fl := if l.contains (.nan true) then fI else 0 }
def invalid (f : Fmt) : Fr := { v := canonNan f, fl := fI }
def isNan : Fv → Bool
  | .nan _ => true
  | _ => false

/-- An exact sum, from two signed values (R276, R279). -/
def faddFin (f : Fmt) (rm : Nat) (s1 : Bool) (m1 : Nat) (e1 : Int) (s2 : Bool) (m2 : Nat) (e2 : Int) : Fr :=
  let e := min e1 e2
  let x : Int := (m1 * 2 ^ (e1 - e).toNat : Nat) * (if s1 then -1 else 1) + (m2 * 2 ^ (e2 - e).toNat : Nat) * (if s2 then -1 else 1)
  if x = 0 then { v := zeroOf f (if s1 = s2 then s1 else decide (rm = 3)), fl := 0 }
  else roundTo f rm (decide (x < 0)) x.natAbs e false

def faddV (f : Fmt) (rm : Nat) (a b : Fv) : Fr :=
  if isNan a ∨ isNan b then nanOf f [a, b]
  else
    match a, b with
    | .inf s, .inf t => if s = t then { v := infOf f s, fl := 0 } else invalid f
    | .inf s, _ => { v := infOf f s, fl := 0 }
    | _, .inf t => { v := infOf f t, fl := 0 }
    | .fin s m e, .fin t n d => faddFin f rm s m e t n d
    | _, _ => invalid f

/-- The operand with its sign changed, a NaN as it is. -/
def negV : Fv → Fv
  | .nan q => .nan q
  | .inf s => .inf (!s)
  | .fin s m e => .fin (!s) m e

def fmulV (f : Fmt) (rm : Nat) (a b : Fv) : Fr :=
  if isNan a ∨ isNan b then nanOf f [a, b]
  else
    match a, b with
    | .inf s, .inf t => { v := infOf f (s != t), fl := 0 }
    | .inf s, .fin t n _ => if n = 0 then invalid f else { v := infOf f (s != t), fl := 0 }
    | .fin s m _, .inf t => if m = 0 then invalid f else { v := infOf f (s != t), fl := 0 }
    | .fin s m e, .fin t n d =>
      if m * n = 0 then { v := zeroOf f (s != t), fl := 0 } else roundTo f rm (s != t) (m * n) (e + d) false
    | _, _ => invalid f

def fdivV (f : Fmt) (rm : Nat) (a b : Fv) : Fr :=
  if isNan a ∨ isNan b then nanOf f [a, b]
  else
    match a, b with
    | .inf _, .inf _ => invalid f
    | .inf s, .fin t _ _ => { v := infOf f (s != t), fl := 0 }
    | .fin s _ _, .inf t => { v := zeroOf f (s != t), fl := 0 }
    | .fin s m e, .fin t n d =>
      if n = 0 then (if m = 0 then invalid f else { v := infOf f (s != t), fl := fZ })
      else if m = 0 then { v := zeroOf f (s != t), fl := 0 }
      else
        let k := 2 * f.fb + 8
        roundTo f rm (s != t) (m * 2 ^ k / n) (e - d - k) (decide (m * 2 ^ k % n ≠ 0))
    | _, _ => invalid f

/-- The whole square root, bit by bit from bit k − 1 down. -/
def isqrt (n : Nat) : Nat → Nat → Nat
  | 0, r => r
  | k + 1, r => isqrt n k (if (r + 2 ^ k) * (r + 2 ^ k) ≤ n then r + 2 ^ k else r)

def fsqrtV (f : Fmt) (rm : Nat) (a : Fv) : Fr :=
  match a with
  | .nan _ => nanOf f [a]
  | .inf s => if s then invalid f else { v := infOf f false, fl := 0 }
  | .fin s m e =>
    if m = 0 then { v := zeroOf f s, fl := 0 }
    else if s then invalid f
    else
      let k := 2 * f.fb + 8 + ((e - (2 * f.fb + 8 : Nat)) % 2).toNat
      let n := m * 2 ^ k
      let r := isqrt n (bitlen n / 2 + 1) 0
      roundTo f rm false r ((e - k) / 2) (decide (r * r ≠ n))

/-- The order of two values that are no NaN: −0 equals +0. -/
def orderV (a b : Fv) : Ordering :=
  match a, b with
  | .inf s, .inf t => if s = t then .eq else if s then .lt else .gt
  | .inf s, _ => if s then .lt else .gt
  | _, .inf t => if t then .gt else .lt
  | .fin s m e, .fin t n d =>
    let c := min e d
    let x : Int := (m * 2 ^ (e - c).toNat : Nat) * (if s then -1 else 1)
    let y : Int := (n * 2 ^ (d - c).toNat : Nat) * (if t then -1 else 1)
    if x < y then .lt else if x = y then .eq else .gt
  | _, _ => .eq

/-- FCMP: 0 equal, 1 less, 2 greater, 3 unordered with I (R283). -/
def fcmpV (a b : Fv) : Nat × BitVec 14 :=
  if isNan a ∨ isNan b then (3, fI)
  else
    match orderV a b with
    | .eq => (0, 0)
    | .lt => (1, 0)
    | .gt => (2, 0)

def negative : Fv → Bool
  | .nan _ => false
  | .inf s => s
  | .fin s _ _ => s

/-- FMIN (`small`) and FMAX on encodings (R283). -/
def fpick (f : Fmt) (small : Bool) (x y : BitVec 28) : Fr :=
  let a := unpack f x
  let b := unpack f y
  if a = .nan true ∨ b = .nan true then invalid f
  else if isNan a then { v := if isNan b then canonNan f else y, fl := 0 }
  else if isNan b then { v := x, fl := 0 }
  else
    let less := match orderV a b with
      | .lt => true
      | .eq => negative a
      | .gt => false
    { v := if less = small then x else y, fl := 0 }

/-- FTOI (R284, R290). -/
def ftoiV (tw : Bool) (rm : Nat) (a : Fv) : Fr :=
  match a with
  | .nan _ => { v := 0, fl := fI }
  | .inf s => { v := ofInt tw (if s then smin tw else smax tw), fl := fI }
  | .fin s m e =>
    let x := roundAt rm s m false (-e)
    let n : Int := if s then -(x.1 : Int) else x.1
    if inRange tw n then { v := ofInt tw n, fl := if x.2 then fX else 0 }
    else { v := ofInt tw (if s then smin tw else smax tw), fl := fI }

/-- ITOF (R284). -/
def itofV (f : Fmt) (rm : Nat) (n : Int) : Fr :=
  if n = 0 then { v := zeroOf f false, fl := 0 } else roundTo f rm (decide (n < 0)) n.natAbs 0 false

/-- One format to another (R285): exact where it widens. A NaN gives the canonical NaN, with I where `raises`. -/
def convertV (g : Fmt) (rm : Nat) (raises : Bool) (a : Fv) : Fr :=
  match a with
  | .nan q => { v := canonNan g, fl := if q && raises then fI else 0 }
  | .inf s => { v := infOf g s, fl := 0 }
  | .fin s m e => if m = 0 then { v := zeroOf g s, fl := 0 } else roundTo g rm s m e false

end Sys2Proof.Machine
end

