-- ==== Sys2Proof/Machine/LongOps.lean ====
section
/-! DEFINITION. The long operations (R239, R260 to R265, R271, R304 to R306), the float syllables (R240, R274 to R289), and the
decimal digit arithmetic that the strings share. -/

namespace Sys2Proof.Machine

/-! Issue to the long-op unit. -/

/-- A long operation's results: its data and float places, deepest first; its PS flags; its FSTATUS flags; the trap it takes
in place of completing, if one is enabled; whether a PS trap it can raise is enabled, and the FSTATUS flags it can raise (R206, R239);
whether it holds the unit (R304), and whether it is a float operation. -/
structure LRes where
  res : List (BitVec 28 × Bool) := []
  fres : List (BitVec 28 × Bool) := []
  fl : FlagSet := FlagSet.none
  fs : BitVec 14 := 0
  trap : Option (Nat × BitVec 28) := none
  held : Bool := false
  can : BitVec 14 := 0
  hold : Bool := false
  float : Bool := false

def pendPlace : SCell := { v := 0, p := true, pend := true }

/-- Issue a long operation: it waits while another holds the unit (R304, R307); its operands are taken and its places reserved (R239).
With a relevant trap enabled it is complete before any later syllable, and may trap (R206). -/
def issueLong (s : Site) (din fin : Nat) (x : LRes) (b : Blk) : Rs :=
  let b := settleLast (fun o => o.hold) s.e b
  match (if (x.fs &&& fenables (s.ctx b)) ≠ 0 then some (14, x.fs.setWidth 28) else x.trap) with
  | some (k, i) => .trap k i b
  | none =>
    let b := putData s din (x.res.map (fun _ => pendPlace)) b
    let b := onEng s.e (fun y => { y with
      fst := x.fres.map (fun _ => pendPlace) ++ y.fst.drop fin,
      lops := y.lops ++ [{ ctx := s.c, res := x.res, fres := x.fres, psMask := x.fl.mask, psVal := x.fl.val &&& x.fl.mask,
                           fl := x.fs &&& 0x1F, hold := x.hold, float := x.float }] }) b
    .done (if x.held ∨ x.can &&& fenables (s.ctx b) ≠ 0 then settleLops s.e b else b)

/-- A data long operation of two operands. -/
def long2 (m : Nat) (fl : BitVec 14) (g : Bool → Ctx → SCell → SCell → LRes) : Syl :=
  { din := 2, dout := m, flags := fl, body := fun s b => issueLong s 2 0 (g s.tw (s.ctx b) (s.arg b 1) (s.arg b 0)) b }

/-! Products (R260). -/

def product (tw : Bool) (n : Int) (p : Bool) : LRes :=
  let m : Nat := (n % (umod tw * umod tw : Nat)).toNat
  { res := [(ofNatW tw m, p), (ofNatW tw (m / umod tw), p)] }

def mulSyl : Syl := long2 2 0 (fun w _ a b => product w (sval w a.v * sval w b.v) (a.p || b.p))
def muluSyl : Syl := long2 2 0 (fun w _ a b => product w ((uval w a.v * uval w b.v : Nat) : Int) (a.p || b.p))

def execMul (e : Nat) (s : State) := run (syllable 0x50 mulSyl e) s
def execMulu (e : Nat) (s : State) := run (syllable 0x51 muluSyl e) s

/-! Divisions (R261 to R265). -/

/-- Quotient truncated toward zero, and remainder with the dividend's sign. -/
def quotOf (n d : Int) : Int := (if (n < 0) ≠ (d < 0) then -1 else 1) * ((n.natAbs / d.natAbs : Nat) : Int)

def divRes (w : Bool) (y : Ctx) (a b : SCell) : LRes :=
  let n := sval w a.v
  let d := sval w b.v
  let p := a.p || b.p
  let past := decide (n = smin w) && decide (d = -1)
  let q : Int := if d = 0 then (if n < 0 then smin w else smax w) else quotOf n d
  let r : Int := if d = 0 then n else n - quotOf n d * d
  { res := [(ofInt w r, p), (ofInt w q, p)], fl := (flagBit 3 (decide (d = 0))).and (flagV past p),
    trap := if d = 0 ∧ psTZ y = true then some (16, a.v) else if past = true ∧ psTV y = true then some (15, 0) else none,
    held := psTZ y || psTV y, hold := true }

def divuRes (w : Bool) (y : Ctx) (a b : SCell) : LRes :=
  let n := uval w a.v
  let d := uval w b.v
  let p := a.p || b.p
  { res := [(ofNatW w (if d = 0 then n else n % d), p), (ofNatW w (if d = 0 then umod w - 1 else n / d), p)],
    fl := flagBit 3 (decide (d = 0)), trap := if d = 0 ∧ psTZ y = true then some (16, a.v) else none, held := psTZ y,
    hold := true }

/-- Field cycles of a division (R262), each debited in class 13 (R373). -/
def divCycles (n : Nat) : Nat := 3 + max 1 (bitlen n)

/-- A syllable that pays n more cycles of a class when it commits (R373). -/
def paying (k : Nat) (n : Site → Blk → Nat) (y : Syl) : Syl :=
  { y with body := fun s b => match y.body s b with
    | .done b1 => .done (debitCycles s.e s.c k (n s b) b1)
    | r => r }

def divSyl : Syl := paying 13 (fun s b => divCycles (sval s.tw (s.arg b 1).v).natAbs) (long2 2 0x2C divRes)
def divuSyl : Syl := paying 13 (fun s b => divCycles (uval s.tw (s.arg b 1).v)) (long2 2 0x08 divuRes)

def execDiv (e : Nat) (s : State) := run (syllable 0x52 divSyl e) s
def execDivu (e : Nat) (s : State) := run (syllable 0x53 divuSyl e) s

/-! Packed decimal (R270, R271, R290). -/

/-- Digits of a decimal cell, its modulus, and its value where it is valid. -/
def decDigits (tw : Bool) : Nat := if tw then 7 else 3
def decMod (tw : Bool) : Nat := 10 ^ decDigits tw
def decOf (tw : Bool) (v : BitVec 28) : Option Nat :=
  let ds := (List.range (decDigits tw)).map (fun i => fld v (4 * i) 4)
  if ds.all (fun d => decide (d ≤ 9)) ∧ uval tw v / 16 ^ decDigits tw = 0 then
    some (ds.foldr (fun d n => d + 10 * n) 0)
  else none
/-- The decimal cell of a value. -/
def toDec (tw : Bool) (n : Nat) : BitVec 28 :=
  BitVec.ofNat 28 (sumN ((List.range (decDigits tw)).map (fun i => n / 10 ^ i % 10 * 16 ^ i)))
def decMarker (tw : Bool) : BitVec 28 := BitVec.ofNat 28 (umod tw - 1)

/-- The digit result of R271: sum or difference and carry; none where an operand is invalid. -/
def decimal (tw sub : Bool) (a b : BitVec 28) (c : Nat) : Option (BitVec 28 × Bool) :=
  match decOf tw a, decOf tw b with
  | some x, some y =>
    if sub then some (toDec tw ((x + decMod tw - y - c) % decMod tw), decide (x < y + c))
    else some (toDec tw ((x + y + c) % decMod tw), decide (decMod tw ≤ x + y + c))
  | _, _ => none

/-- DADD and DSUB: C is read, so PF taints them (R184). -/
def decRes (sub w : Bool) (y : Ctx) (a b : SCell) : LRes :=
  let p := a.p || b.p || psPF y
  match decimal w sub a.v b.v (b2n (psC y)) with
  | some (v, c) => { res := [(v, p)], fl := (flagBit 4 false).and (flagC c p), held := psTD y }
  | none =>
    { res := [(decMarker w, p)], fl := (flagBit 4 true).and (flagC false p), held := psTD y,
      trap := if psTD y then some (17, 0) else none }

def daddSyl : Syl := long2 1 0x32 (decRes false)
def dsubSyl : Syl := long2 1 0x32 (decRes true)

def execDadd (e : Nat) (s : State) := run (syllable 0x54 daddSyl e) s
def execDsub (e : Nat) (s : State) := run (syllable 0x55 dsubSyl e) s

/-! Floats. -/

/-- The rounding mode of a float operation at issue: PS.RM, or, after a SETRM without its SYNC, either mode (R268). -/
def roundMode (s : Site) (b : Blk) : Nat × Blk :=
  let y := s.ctx b
  match y.rmOld with
  | none => (psRM y, b)
  | some o =>
    let n := takeFree b
    (if Config.freeRounding n.1 then o else psRM y, n.2)

/-- A float syllable of k float operands with a float result; the flags it can raise (R239), and whether it holds the unit (R304). -/
def floatOp (k : Nat) (can : BitVec 14) (hold : Bool) (g : Fmt → Nat → List (BitVec 28) → Fr) : Syl :=
  { fin := k, fout := 1, float := true, body := fun s b =>
      let l := (engOf b s.e).fst.take k
      let m := roundMode s b
      let x := g (fmtOf s.tw) m.1 (l.map (fun c => c.v))
      issueLong s 0 k { fres := [(x.v, l.any (fun c => c.p))], fs := x.fl, can := can, hold := hold, float := true } m.2 }

def faddSyl : Syl := floatOp 2 23 false (fun f m l => faddV f m (unpack f (arg1 l)) (unpack f (arg0 l)))
def fsubSyl : Syl := floatOp 2 23 false (fun f m l => faddV f m (unpack f (arg1 l)) (negV (unpack f (arg0 l))))
def fmulSyl : Syl := floatOp 2 23 false (fun f m l => fmulV f m (unpack f (arg1 l)) (unpack f (arg0 l)))
def fdivSyl : Syl := paying 17 (fun s _ => if s.tw then 23 else 12)
  (floatOp 2 31 true (fun f m l => fdivV f m (unpack f (arg1 l)) (unpack f (arg0 l))))
def fsqrtSyl : Syl := paying 17 (fun s _ => if s.tw then 23 else 12) (floatOp 1 17 true (fun f m l => fsqrtV f m (unpack f (arg0 l))))
def fminSyl : Syl := floatOp 2 16 false (fun f _ l => fpick f true (arg1 l) (arg0 l))
def fmaxSyl : Syl := floatOp 2 16 false (fun f _ l => fpick f false (arg1 l) (arg0 l))

def execFadd (e : Nat) (s : State) := run (syllable 0x56 faddSyl e) s
def execFsub (e : Nat) (s : State) := run (syllable 0x57 fsubSyl e) s
def execFmul (e : Nat) (s : State) := run (syllable 0x58 fmulSyl e) s
def execFdiv (e : Nat) (s : State) := run (syllable 0x59 fdivSyl e) s
def execFsqrt (e : Nat) (s : State) := run (syllable 0x5A fsqrtSyl e) s
def execFmin (e : Nat) (s : State) := run (syllable 0x5E fminSyl e) s
def execFmax (e : Nat) (s : State) := run (syllable 0x5F fmaxSyl e) s

/-- FCMP F:( a b -- ) ( -- c ). -/
def fcmpSyl : Syl :=
  { fin := 2, dout := 1, float := true, body := fun s b =>
      let f := fmtOf s.tw
      let x := fcmpV (unpack f (s.farg b 1).v) (unpack f (s.farg b 0).v)
      issueLong s 0 2 { res := [(BitVec.ofNat 28 x.1, (s.farg b 0).p || (s.farg b 1).p)], fs := x.2, can := 16, float := true } b }

/-- FTOI F:( r -- ) ( -- n ). -/
def ftoiSyl : Syl :=
  { fin := 1, dout := 1, float := true, body := fun s b =>
      let m := roundMode s b
      let x := ftoiV s.tw m.1 (unpack (fmtOf s.tw) (s.farg b 0).v)
      issueLong s 0 1 { res := [(x.v, (s.farg b 0).p)], fs := x.fl, can := 17, float := true } m.2 }

/-- ITOF ( n -- ) F:( -- r ). -/
def itofSyl : Syl :=
  { din := 1, fout := 1, float := true, body := fun s b =>
      let m := roundMode s b
      let x := itofV (fmtOf s.tw) m.1 (sval s.tw (s.arg b 0).v)
      issueLong s 1 0 { fres := [(x.v, (s.arg b 0).p)], fs := x.fl, can := 1, float := true } m.2 }

def execFcmp (e : Nat) (s : State) := run (syllable 0x5B fcmpSyl e) s
def execFtoi (e : Nat) (s : State) := run (syllable 0x5C ftoiSyl e) s
def execItof (e : Nat) (s : State) := run (syllable 0x5D itofSyl e) s

/-- FWIDEN: in a single engine F:( r -- ) ( -- lo hi ), in a pair ( c -- ) F:( -- r ) (R285, R332). -/
def fwidenSingle : Syl :=
  { fin := 1, dout := 2, float := true, body := fun s b =>
      let x := convertV tf28 0 false (unpack cf14 (s.farg b 0).v)
      let p := (s.farg b 0).p
      issueLong s 0 1 { res := [((lo14 x.v).setWidth 28, p), ((hi14 x.v).setWidth 28, p)], float := true } b }
def fwidenTwin : Syl :=
  { din := 1, fout := 1, float := true, body := fun s b =>
      let x := convertV tf28 0 false (unpack cf14 ((lo14 (s.arg b 0).v).setWidth 28))
      issueLong s 1 0 { fres := [(x.v, (s.arg b 0).p)], float := true } b }

/-- FNARROW: in a single engine ( lo hi -- ) F:( -- r ), in a pair F:( r -- ) ( -- c ) (R285, R332). -/
def fnarrowSingle : Syl :=
  { din := 2, fout := 1, float := true, body := fun s b =>
      let m := roundMode s b
      let x := convertV cf14 m.1 true (unpack tf28 (pair (lo14 (s.arg b 1).v) (lo14 (s.arg b 0).v)))
      issueLong s 2 0 { fres := [(x.v, (s.arg b 0).p || (s.arg b 1).p)], fs := x.fl, can := 23, float := true } m.2 }
def fnarrowTwin : Syl :=
  { fin := 1, dout := 1, float := true, body := fun s b =>
      let m := roundMode s b
      let x := convertV cf14 m.1 true (unpack tf28 (s.farg b 0).v)
      issueLong s 0 1 { res := [(x.v, (s.farg b 0).p)], fs := x.fl, can := 23, float := true } m.2 }

def execFwiden (e : Nat) (s : State) :=
  run (fun b => syllable (128 + 0x28) (if isTwin (overrunIfLate (fldOf e) b) e then fwidenTwin else fwidenSingle) e b) s
def execFnarrow (e : Nat) (s : State) :=
  run (fun b => syllable (128 + 0x29) (if isTwin (overrunIfLate (fldOf e) b) e then fnarrowTwin else fnarrowSingle) e b) s

/-! Float moves (R241): the bits as they are. -/

def putFst (s : Site) (n : Nat) (l : List SCell) (b : Blk) : Blk :=
  onEng s.e (fun x => { x with fst := l ++ x.fst.drop n }) b

def fldSyl : Syl :=
  { din := 1, fout := 1, float := true, body := fun s b => .done (putFst s 0 [s.arg b 0] (putData s 1 [] b)) }
def fstSyl : Syl :=
  { fin := 1, dout := 1, float := true, body := fun s b => .done (putData s 0 [s.farg b 0] (putFst s 1 [] b)) }
def fdupSyl : Syl := { fin := 1, fout := 2, float := true, body := fun s b => .done (putFst s 0 [s.farg b 0] b) }
def fdropSyl : Syl := { fin := 1, float := true, body := fun s b => .done (putFst s 1 [] b) }
def fswapSyl : Syl :=
  { fin := 2, fout := 2, float := true, body := fun s b => .done (putFst s 2 [s.farg b 1, s.farg b 0] b) }

def execFld (e : Nat) (s : State) := run (syllable 0x77 fldSyl e) s
def execFst (e : Nat) (s : State) := run (syllable 0x78 fstSyl e) s
def execFdup (e : Nat) (s : State) := run (syllable 0x79 fdupSyl e) s
def execFdrop (e : Nat) (s : State) := run (syllable 0x7A fdropSyl e) s
def execFswap (e : Nat) (s : State) := run (syllable 0x7B fswapSyl e) s

/-- LONG_OP_COMPLETE (R305). -/
def execLongOpComplete (e : Nat) (s : State) :=
  run (fun b => if clocked b (fldOf e) ∧ e < nEngines b then completeLop e b else b) s

end Sys2Proof.Machine
end

