-- ==== Sys2Proof/Machine/MemSyl.lean ====
section
/-! DEFINITION. The memory syllables (R227 to R235, R325, R326) and the restartable block operations (R209, R247 to R250,
R272). -/

namespace Sys2Proof.Machine

/-! Loads and stores (R227). -/

/-- A load of the cell at `at s b`, the n operands being replaced by `out`, top first. -/
def load1 (n m : Nat) (poi : List (Nat × Nat)) (at_ : Site → Blk → BitVec 28) (out : Site → BitVec 28 → SCell → List SCell) : Syl :=
  { din := n, dout := m, poi := poi
    chk := fun s b => readyRead s false [at_ s b] b
    body := fun s b =>
      let a := at_ s b
      let k := readClass s b a
      let x := readCell s false a b
      .done (payAccess s [k] (putData s n (out s a x.1) x.2)) }

/-- A store of operand i at the top operand, n operands being replaced. -/
def store1 (m : Nat) (out : Site → BitVec 28 → List SCell) : Syl :=
  { din := 2, dout := m, poi := [(0, 1)]
    chk := fun s b => readyStore s [(s.addr (s.arg b 0).v, (s.arg b 1).p)] b
    body := fun s b =>
      let a := s.addr (s.arg b 0).v
      .done (payAccess s [writeClass s b a] (storeCell s false a (s.arg b 1) (putData s 2 (out s a) b))) }

def topAddr (s : Site) (b : Blk) : BitVec 28 := s.addr (s.arg b 0).v

def ldSyl : Syl := load1 1 1 [(0, 1)] topAddr (fun _ _ x => [x])
def ldiSyl : Syl := load1 1 2 [(0, 1)] topAddr (fun s a x => [sc (s.off a s.words), x])
def ldvSyl : Syl := load1 2 1 [(0, 1), (1, 1)]
  (fun s b => s.addr ((s.arg b 1).v + BitVec.ofNat 28 s.words * (s.arg b 0).v)) (fun _ _ x => [x])
def stSyl : Syl := store1 0 (fun _ _ => [])
def stiSyl : Syl := store1 1 (fun s a => [sc (s.off a s.words)])

def execLd (e : Nat) (s : State) := run (syllable 0x30 ldSyl e) s
def execSt (e : Nat) (s : State) := run (syllable 0x31 stSyl e) s
def execLdi (e : Nat) (s : State) := run (syllable 0x32 ldiSyl e) s
def execSti (e : Nat) (s : State) := run (syllable 0x33 stiSyl e) s
def execLdv (e : Nat) (s : State) := run (syllable 0x36 ldvSyl e) s

/-- Both cells of LDP (R69, R227): of a latched pair of registers from one instant, else one after the other. -/
def readTwo (s : Site) (a : BitVec 28) (b : Blk) : SCell × SCell × Blk :=
  let x := resolve s b a
  let wide := if s.tw = false ∧ isRegAddr x = true ∧ resolve s b (s.off a 1) = x + 1 then instantPair s.master x true b else none
  match wide with
  | some (v, b) =>
    (sc14 (lo14 v), sc14 (hi14 v), watch s false false [(x + 1, clean (hi14 v))] (watch s false false [(x, clean (lo14 v))] b))
  | none =>
    let p := readCell s false a b
    let q := readCell s false (s.off a s.words) p.2
    (p.1, q.1, q.2)

def ldpSyl : Syl :=
  { din := 1, dout := 2, poi := [(0, 1)]
    chk := fun s b => readyRead s true [topAddr s b, s.off (topAddr s b) s.words] b
    body := fun s b =>
      let a := topAddr s b
      let ks := [readClass s b a, readClass s b (s.off a s.words)]
      let x := readTwo s a b
      .done (payAccess s ks (putData s 1 [x.2.1, x.1] x.2.2)) }

def stpSyl : Syl :=
  { din := 3, dout := 0, poi := [(0, 1)]
    chk := fun s b => readyStore s [(topAddr s b, (s.arg b 2).p), (s.off (topAddr s b) s.words, (s.arg b 1).p)] b
    body := fun s b =>
      let a := topAddr s b
      .done (payAccess s [writeClass s b a, writeClass s b (s.off a s.words)]
        (storeTwo s a (s.arg b 2) (s.arg b 1) (putData s 3 [] b))) }

def execLdp (e : Nat) (s : State) := run (syllable 0x34 ldpSyl e) s
def execStp (e : Nat) (s : State) := run (syllable 0x35 stpSyl e) s

/-! Read and write of one cell (R227): not atomic, no flag. -/

/-- The cell at the top operand becomes `g` of it and of the second operand n. A poisoned result stored to a register bites. -/
def modifyCell (g : Bool → BitVec 28 → BitVec 28 → BitVec 28) : Syl :=
  { din := 2, dout := 0, poi := [(0, 1)]
    chk := fun s b => ready s false [{ kind := 2, ea := topAddr s b, p := (s.arg b 1).p }] b
    body := fun s b =>
      let a := topAddr s b
      let n := s.arg b 1
      let x := readCell s false a b
      let r := scP (wid s.tw (g s.tw n.v x.1.v)) (n.p || x.1.p)
      if bitesStore s b a r.p then .trap 5 6 b
      else .done (payAccess s [readClass s b a, writeClass s b a] (storeCell s false a r (putData s 2 [] x.2))) }

def plusstSyl : Syl := modifyCell (fun _ n x => x + n)
def bitsetSyl : Syl := modifyCell (fun _ n x => if fld n 0 4 < 14 then x ||| ((1 : BitVec 28) <<< fld n 0 4) else x)
def bitclrSyl : Syl := modifyCell (fun _ n x => if fld n 0 4 < 14 then x &&& ~~~((1 : BitVec 28) <<< fld n 0 4) else x)

def execPlusst (e : Nat) (s : State) := run (syllable 0x37 plusstSyl e) s
def execBitset (e : Nat) (s : State) := run (syllable 0x3A bitsetSyl e) s
def execBitclr (e : Nat) (s : State) := run (syllable 0x3B bitclrSyl e) s

/-! The own code store (R228). -/

/-- The block address of offset o of the own code store. -/
def codeAddr (s : Site) (b : Blk) (o : BitVec 28) : Nat := codeBase s.e + o.toNat % codeLen b s.e

def ldcSyl : Syl :=
  { din := 1, dout := 1, poi := [(0, 1)], body := fun s b =>
      let a := codeAddr s b (s.arg b 0).v
      let x := readWord s a b
      .done (pay s 6 (putData s 1 [scP (x.1.v.setWidth 28) x.1.p] (watch s false false [(a, x.1)] x.2))) }

def stcSyl : Syl :=
  { din := 2, dout := 0, kernel := true, poi := [(0, 1)]
    chk := fun s b => roomFor s.e 1 b
    body := fun s b =>
      let w := (codeAddr s b (s.arg b 0).v, { v := lo14 (s.arg b 1).v, p := (s.arg b 1).p : BCell })
      .done (pay s 6 (watch s true false [w] (putStore s [w] (putData s 2 [] b)))) }

def execLdc (e : Nat) (s : State) := run (syllable 0x38 ldcSyl e) s
def execStc (e : Nat) (s : State) := run (syllable 0x39 stcSyl e) s

/-- PREF (R228): it reads a cell of the own field memory where a read is permitted, and else does nothing. -/
def prefSyl : Syl :=
  { din := 1, dout := 0, poi := [(0, 1)], body := fun s b =>
      let ws := cellWords s b (topAddr s b)
      let ok := ws.all (fun a => isOwnMem s.field a && permits (permOf b s.field (a % 0x10000) (locOf s.e)) 0)
      let b1 := putData s 1 [] b
      if ok = false then .done b1
      else if ws.any (heldByOther b s.e) then (meetsHeld s b).then .done
      else .done (pay s 3 (each (fun a b => (busRead s.master a b).2.2) ws b1)) }

def execPref (e : Nat) (s : State) := run (syllable 0x3F prefSyl e) s

/-! Atomic access (R229) and locked sequences (R230 to R235). -/

/-- The ledger classes of an atomic operation's read, and of its write (R373). -/
def atomicClass (s : Site) (b : Blk) (wr : Bool) (a : BitVec 28) : Nat :=
  if isOwnMem s.field (resolve s b a) then (if wr then 4 else 3) else 6

/-- Store at once, the buffer being empty: an atomic operation's write takes the word. -/
def storeNow (s : Site) (a : BitVec 28) (x : SCell) (b : Blk) : Blk :=
  let b := storeCell s false a x b
  (drainAll s.e b).getD b

def xchgSyl : Syl :=
  { din := 2, dout := 1, poi := [(0, 1)]
    chk := fun s b => ready s false [{ kind := 2, ea := topAddr s b, p := (s.arg b 1).p }] b
    body := fun s b =>
      let a := topAddr s b
      let old := readCell s false a b
      let b1 := storeNow s a (s.arg b 1) (putData s 2 [old.1] old.2)
      .done (pay s 7 (pay s (atomicClass s b true a) (pay s (atomicClass s b false a) b1))) }

/-- CAS ( w e a -- f ): a broken sequence makes it push 0 and store nothing; it ends the sequence (R229, R232, R233). The flag
carries P where an input does, the content counting where it is compared (R202). -/
def casSyl : Syl :=
  { din := 3, dout := 1, poi := [(0, 1)]
    chk := fun s b => ready s false [{ kind := 2, ea := topAddr s b, p := false }] b
    body := fun s b =>
      let a := topAddr s b
      let x := s.arg b 1
      let w := s.arg b 2
      let old := readCell s false a b
      let broken := (lockOf b s.e s.c).any (fun k => k.broken)
      let hit := !broken && !old.1.p && decide (old.1.v = x.v)
      if hit && bitesStore s b a w.p then .trap 5 6 b
      else
        let b1 := putData s 3 [scP (flag1 hit) (x.p || w.p || (!broken && old.1.p))] old.2
        let b2 := endLock s.e s.c (if hit then storeNow s a w b1 else b1)
        let b3 := pay s (atomicClass s b false a) b2
        .done (pay s 7 (if hit then pay s (atomicClass s b true a) b3 else b3)) }

/-- LOCK ( a n -- ): the addresses of the range. -/
def lockRange (s : Site) (b : Blk) : List Nat :=
  let a := s.addr (s.arg b 1).v
  (List.range (uval s.tw (s.arg b 0).v)).map (fun i => resolve s b (s.off a i))

def lockSyl : Syl :=
  { din := 2, dout := 0, poi := [(1, 1), (0, 7)]
    bad := fun s b => if s.c = 4 ∨ (lockOf b s.e s.c).isSome then some (3, s.sylInfo) else none
    body := fun s b =>
      let n := uval s.tw (s.arg b 0).v
      let r := lockRange s b
      let broken := decide (n = 0) || decide (8 < n) || !(r.all (isOwnMem s.field))
      if !broken && r.any (heldByOther b s.e) then .wait b
      else .done (pay s 7 (onEng s.e (fun x => { x with
        locks := x.locks ++ [{ ctx := s.c, addrs := r, n := n, stored := 0, syls := 0, broken := broken }] }) (putData s 2 [] b))) }

def execXchg (e : Nat) (s : State) := run (syllable 0x3C xchgSyl e) s
def execLock (e : Nat) (s : State) := run (syllable 0x3D lockSyl e) s
def execCas (e : Nat) (s : State) := run (syllable 0x3E casSyl e) s

/-! Block operations (R209). One command makes one commit. -/

/-- The progress that a block operation works from: `start` at its first commit, else MPROG, or a free value where software
wrote MPROG while MIP was 1. -/
def progress (s : Site) (start : Nat) (b : Blk) : Nat × Blk :=
  let y := s.ctx b
  if y.mip = false then (start, b)
  else if y.mfree then
    let n := takeFree b
    ((Config.freeProgress n.1).toNat, n.2)
  else (y.mprog.toNat, b)

/-- The same, to look at before the work. -/
def progressPeek (s : Site) (start : Nat) (b : Blk) : Nat := (progress s start b).1

/-- MIP and MPROG at a commit that is not the last, and at the last (R209). -/
def opPart (s : Site) (p : Nat) (b : Blk) : Blk :=
  onCtx s.e s.c (fun y => { y with mip := true, mprog := BitVec.ofNat 28 p, mfree := false }) b
def opDone (s : Site) (b : Blk) : Blk := onCtx s.e s.c (fun y => { y with mip := false, mprog := 0, mfree := false }) b

/-- A commit that is not the last, and the final commit, with n debits of class 18 (R209, R373). -/
def recordPart (s : Site) (n p : Nat) (b : Blk) : Rs := .part (debitCycles s.e s.c 18 n (opPart s p b))
def lastCommit (s : Site) (n : Nat) (b : Blk) : Rs := .done (debitCycles s.e s.c 18 n (opDone s b))

/-- The lowest and the highest set bit of a mask. -/
def lowBit (m : Nat) : Nat := ((List.range 14).find? (fun i => m / 2 ^ i % 2 = 1)).getD 0
def highBit (m : Nat) : Nat := ((List.range 14).reverse.find? (fun i => m / 2 ^ i % 2 = 1)).getD 0
def maskOf (s : Site) (b : Blk) : Nat := fld (s.arg b 0).v 0 14
def popc14 (m : Nat) : Nat := ones (BitVec.ofNat 14 m)

/-- The address of the cell that a mask bit names, from operand a (the second). -/
def maskAddr (s : Site) (b : Blk) (i : Nat) : BitVec 28 := s.off (s.addr (s.arg b 1).v) (i * s.words)

/-- LDM ( a m -- x… ): the lowest cell not yet loaded (R247). -/
def ldmSyl : Syl :=
  { din := 2, dout := 0, poi := [(1, 1), (0, 7)]
    chk := fun s b =>
      let m := progressPeek s (maskOf s b) b % 0x4000
      if m = 0 then .ok b
      else (readyRead s false [maskAddr s b (lowBit m)] b).next (roomData s 0 (if popc14 m = 1 then 0 else 1))
    body := fun s b =>
      let x := progress s (maskOf s b) b
      let b := x.2
      let m := x.1 % 0x4000
      if m = 0 then lastCommit s 0 (putData s 2 [] b)
      else
        let i := lowBit m
        let y := readCell s false (maskAddr s b i) b
        let rest := m - 2 ^ i
        if rest = 0 then lastCommit s 1 (putData s 2 [y.1] y.2)
        else recordPart s 1 rest (putData s 2 [s.arg b 0, s.arg b 1, y.1] y.2) }

/-- STM ( x… a m -- ): the highest cell not yet stored (R248). Its operands are filled before its first commit. -/
def stmSyl : Syl :=
  { din := 2, dout := 0, poi := [(1, 1), (0, 7)]
    chk := fun s b =>
      let m := progressPeek s (maskOf s b) b % 0x4000
      if m = 0 then .ok b
      else
        (needData s (2 + popc14 m) b).next (fun b =>
          let b := if ((s.ctx b).data.take (2 + popc14 m)).any (fun c => c.pend) then settleLast (lopData s.c) s.e b else b
          readyStore s [(maskAddr s b (highBit m), (s.arg b 2).p)] b)
    body := fun s b =>
      let x := progress s (maskOf s b) b
      let b := x.2
      let m := x.1 % 0x4000
      if m = 0 then lastCommit s 0 (putData s 2 [] b)
      else
        let i := highBit m
        let b1 := storeCell s false (maskAddr s b i) (s.arg b 2) b
        let rest := m - 2 ^ i
        if rest = 0 then lastCommit s 1 (putData s 3 [] b1)
        else recordPart s 1 rest (putData s 3 [s.arg b 0, s.arg b 1] b1) }

def execLdm (e : Nat) (s : State) := run (syllable 128 ldmSyl e) s
def execStm (e : Nat) (s : State) := run (syllable 129 stmSyl e) s

/-- The source and destination addresses of cell i of ( s d l ). -/
def srcAt (s : Site) (b : Blk) (i : Nat) : BitVec 28 := s.off (s.addr (s.arg b 2).v) (i * s.words)
def dstAt (s : Site) (b : Blk) (i : Nat) : BitVec 28 := s.off (s.addr (s.arg b 1).v) (i * s.words)
def lenOf (s : Site) (b : Blk) : Nat := uval s.tw (s.arg b 0).v

/-- Cell i of a string is done, with n debits: the operation ends with cell l − 1. -/
def stringCommit (s : Site) (n i l : Nat) (b : Blk) : Rs :=
  if l ≤ i + 1 then lastCommit s n (putData s 3 [] b) else recordPart s n (i + 1) b

/-- MOVB ( s d l -- ) (R249). -/
def movbSyl : Syl :=
  { din := 3, dout := 0, poi := [(2, 1), (1, 1), (0, 7)]
    chk := fun s b =>
      let i := progressPeek s 0 b
      if lenOf s b ≤ i then .ok b
      else ready s false [{ kind := 0, ea := srcAt s b i, p := false }, { kind := 1, ea := dstAt s b i, p := false }] b
    body := fun s b =>
      let x := progress s 0 b
      let b := x.2
      let i := x.1
      let l := lenOf s b
      if l ≤ i then lastCommit s 0 (putData s 3 [] b)
      else
        let y := readCell s false (srcAt s b i) b
        if bitesStore s b (dstAt s b i) y.1.p then .trap 5 6 b
        else stringCommit s 2 i l (storeCell s false (dstAt s b i) y.1 y.2) }

/-- The string operations' flags before cell i: the first cell clears DV (R272). -/
def stringDv (s : Site) (b : Blk) (i : Nat) : Bool := !(decide (i = 0) && !((s.ctx b).mip)) && psDV (s.ctx b)

/-- DSADD and DSSUB ( s d l -- ) (R250, R272). -/
def stringSyl (sub : Bool) : Syl :=
  { din := 3, dout := 0, flags := 0x32, poi := [(2, 1), (1, 1), (0, 7)]
    chk := fun s b =>
      let i := progressPeek s 0 b
      if lenOf s b ≤ i then .ok b
      else ready s false [{ kind := 0, ea := srcAt s b i, p := false }, { kind := 0, ea := dstAt s b i, p := false },
        { kind := 1, ea := dstAt s b i, p := false }] b
    body := fun s b0 =>
      let x := progress s 0 b0
      let b := x.2
      let i := x.1
      let l := lenOf s b
      if l ≤ i then lastCommit s 0 (putData s 3 [] b)
      else
        let u := readCell s false (srcAt s b i) b
        let v := readCell s false (dstAt s b i) u.2
        let y := s.ctx b
        let p := u.1.p || v.1.p || psPF y
        let r := if stringDv s b0 i then none else decimal s.tw sub v.1.v u.1.v (b2n (psC y))
        if r.isNone ∧ psTD y = true then .trap 17 0 b0
        else if bitesStore s b (dstAt s b i) p then .trap 5 6 b0
        else
          let c := match r with
            | some (_, c) => c
            | none => false
          let d := match r with
            | some (n, _) => n
            | none => decMarker s.tw
          let b1 := onCtx s.e s.c (putFlags ((flagBit 4 r.isNone).and (flagC c p))) v.2
          stringCommit s 3 i l (storeCell s false (dstAt s b i) (scP d p) b1) }

def execMovb (e : Nat) (s : State) := run (syllable 130 movbSyl e) s
def execDsadd (e : Nat) (s : State) := run (syllable 131 (stringSyl false) e) s
def execDssub (e : Nat) (s : State) := run (syllable 132 (stringSyl true) e) s

/-- STORE_DRAIN (R301). -/
def execStoreDrain (e : Nat) (s : State) :=
  run (fun b => if clocked b (fldOf e) ∧ e < nEngines b then drainWait e 1 b else b) s

end Sys2Proof.Machine
end

