-- ==== Sys2Proof/Machine/Control.lean ====
section
/-! DEFINITION. The control syllables (R236 to R238), SLOTEND (R251), the returns from FE and from handlers (R208, R357,
R358), event entry (R350 to R355), the end of a turn and the idle cycle (R367 to R373). -/

namespace Sys2Proof.Machine

/-! Branches (R236, R219). -/

/-- A branch to `t` when `cond` of its tested cell holds; n is 1 with a tested cell. -/
def branch (n : Nat) (cond : Bool → BitVec 28 → Bool) (t : Site → BitVec 28) : Syl :=
  { din := n, dout := 0, poi := if n = 1 then [(0, 4)] else []
    body := fun s b =>
      let go := cond s.tw (s.arg b 0).v
      let b := putData s n [] b
      if go then .jump (t s) b else .done b }

def always : Bool → BitVec 28 → Bool := fun _ _ => true
def isZero (w : Bool) (v : BitVec 28) : Bool := decide (uval w v = 0)
def notZero (w : Bool) (v : BitVec 28) : Bool := decide (uval w v ≠ 0)

def inlineTarget (s : Site) : BitVec 28 := inlineVal s 0
/-- The target of a short branch (R219). -/
def shortTarget (s : Site) : BitVec 28 := wid s.tw (s.pc + 1 + (BitVec.ofNat 7 s.partner).signExtend 28)

def execBr (e : Nat) (s : State) := run (syllable 0x40 (branch 0 always inlineTarget) e) s
def execBz (e : Nat) (s : State) := run (syllable 0x41 (branch 1 isZero inlineTarget) e) s
def execBnz (e : Nat) (s : State) := run (syllable 0x42 (branch 1 notZero inlineTarget) e) s
def execSbr (e : Nat) (s : State) := run (syllable 0x48 (branch 0 always shortTarget) e) s
def execSbz (e : Nat) (s : State) := run (syllable 0x49 (branch 1 isZero shortTarget) e) s
def execSbnz (e : Nat) (s : State) := run (syllable 0x4A (branch 1 notZero shortTarget) e) s

/-! Calls and returns (R236, R237). -/

def callSyl : Syl := { rout := 1, body := fun s b => .jump (inlineTarget s) (putRet s 0 [sc s.next] b) }
def callsSyl : Syl :=
  { din := 1, rout := 1, poi := [(0, 5)], body := fun s b =>
      .jump (s.arg b 0).v (putRet s 0 [sc (s.off s.pc 1)] (putData s 1 [] b)) }
def retSyl : Syl := { rin := 1, rpoi := [(0, 5)], body := fun s b => .jump (s.rarg b 0).v (putRet s 1 [] b) }
def jmpsSyl : Syl := { din := 1, poi := [(0, 5)], body := fun s b => .jump (s.arg b 0).v (putData s 1 [] b) }

/-- LOOP R:( t c -- t c' ) or R:( t c -- ) (R237). The target bites when it is used. -/
def loopSyl : Syl :=
  { rin := 2, rout := 2, rpoi := [(0, 4)]
    chk := fun s b => if uval s.tw (s.rarg b 0).v ≠ 1 ∧ (s.rarg b 1).p = true then .trap 5 5 b else .ok b
    body := fun s b =>
      let c := wid s.tw ((s.rarg b 0).v - 1)
      let t := s.rarg b 1
      if c = 0 then .done (putRet s 2 [] b) else .jump t.v (putRet s 2 [sc c, t] b) }

def execCall (e : Nat) (s : State) := run (syllable 0x43 callSyl e) s
def execRet (e : Nat) (s : State) := run (syllable 0x44 retSyl e) s
def execJmps (e : Nat) (s : State) := run (syllable 0x45 jmpsSyl e) s
def execCalls (e : Nat) (s : State) := run (syllable 0x46 callsSyl e) s
def execLoop (e : Nat) (s : State) := run (syllable 0x47 loopSyl e) s

/-! TRAP, SLEEP, YIELD, HALT, SLOTEND (R205, R238, R251). -/

/-- The context stands at the syllable after this one. -/
def standAfter (s : Site) (b : Blk) : Blk :=
  onCtx s.e s.c (fun y => { y with pc := (after s).1, sylb := (after s).2 }) b

/-- TRAP commits: the entry names the next syllable (R205). In FE it is a double fault (R207). -/
def trapSyl : Syl :=
  { din := 1, poi := [(0, 7)], body := fun s b =>
      let n := (s.arg b 0).v
      if s.c = 4 then .trap 18 n b
      else .leave (enterTrap s 18 n (after s).1 (after s).2 (standAfter s (putData s 1 [] b))) }

/-- The illegal uses of R254 by context. -/
def illegalIn (cs : List Nat) (s : Site) (_ : Blk) : Option (Nat × BitVec 28) :=
  if cs.contains s.c then some (3, s.sylInfo) else none

/-- SLEEP in C1 to C3: the request line may already wake it (R238, R349). -/
def sleepSyl : Syl :=
  { bad := illegalIn [0, 4], body := fun s b =>
      let b := endLock s.e s.c (onCtx s.e s.c (fun y => { y with state := 2 }) (standAfter s b))
      .leave (refreshLines s.field (stopRun s.e b)) }

/-- YIELD in C1 to C3 ends the turn; in C0 and FE it has no effect but to end a locked sequence (R232, R238). -/
def yieldSyl : Syl :=
  { body := fun s b =>
      let b := endLock s.e s.c b
      .done (if s.c = 0 ∨ s.c = 4 then b else onEng s.e (fun x => { x with turnOver := true, lastRan := s.c }) b) }

/-- HALT sets RUN to 0 (R238). -/
def haltSyl : Syl :=
  { kernel := true, body := fun s b => .leave (clrReg (aE s.e 0x00) 0x800 (endLock s.e s.c (standAfter s b))) }

/-- SLOTEND: every earlier write has reached its destination; the slot program ends (R251, R38, R44, R45). -/
def slotendSyl : Syl :=
  { bad := illegalIn [1, 2, 3, 4], chk := fun s b => synchronized s.e s.c b, body := fun s b =>
      let b := endLock s.e 0 (dropLops s.e 0 b)
      let y := s.ctx b
      let b := match (engOf b s.e).slot.bind (recOf b s.field) with
        | some r => settleEnd s.field r y.spois b
        | none => b
      let b := onEng s.e (fun x => { x with slot := none }) (onCtx s.e 0 (fun y => { y with state := 0 }) (standAfter s b))
      .leave (stopRun s.e b) }

def execTrap (e : Nat) (s : State) := run (syllable 0x4C trapSyl e) s
def execSleep (e : Nat) (s : State) := run (syllable 0x4D sleepSyl e) s
def execYield (e : Nat) (s : State) := run (syllable 0x4E yieldSyl e) s
def execHalt (e : Nat) (s : State) := run (syllable 0x4F haltSyl e) s
def execSlotend (e : Nat) (s : State) := run (syllable (128 + 0x1A) slotendSyl e) s

/-! Event entry (R350 to R355). -/

/-- Where the handler of source q starts for context c of engine e (R351, R365). -/
def handlerOf (b : Blk) (e q : Nat) : BitVec 28 :=
  let h := match srcLive b (fldOf e) q with
    | some y => y.hidx
    | none => 0
  let v := (reg b (aF (fldOf e) 0x103)).toNat + 2 * h
  if isTwin b e then BitVec.ofNat 28 (codeBase e + v % 0x2000) else BitVec.ofNat 28 (v % 0x4000)

/-- The frame cell LV (R352). -/
def lvCell (b : Blk) (e c : Nat) (y : Ctx) : BitVec 28 :=
  BitVec.ofNat 28 (b2n y.sylb * 0x2000 + b2n (decide (y.state ≠ 1)) * 0x1000 + evLevel b (fldOf e) (locOf e) c)

/-- The vector cycle: source q is claimed, its claim value pushed, the level and PC set (R351, R373). -/
def takeSource (s : Site) (q : Nat) (b : Blk) : Blk :=
  let x := claimSrc s.field (locOf s.e) q b
  let b := onCtx s.e s.c (fun y => { y with
    data := sc14 x.1 :: y.data, pc := handlerOf b s.e q, sylb := false, state := 1 }) x.2
  let b := refreshLines s.field (setEvLevel s.field (locOf s.e) s.c q b)
  debitCycles s.e s.c 22 1 (onEng s.e (fun x => { x with pf := [], pairB := false }) b)

/-- The frame of context c as it stood at the boundary (R352), its PS being `ps`: when c was IDLE its PC and SYLB are 0. -/
def pushFrame (s : Site) (ps : BitVec 14) (y : Ctx) (b : Blk) : Blk :=
  let idle := decide (y.state = 0)
  putRet s 0 [sc (lvCell b s.e s.c { y with sylb := y.sylb && !idle }), sc14 ps, sc (if idle then 0 else y.pc)] b

/-- A null entry (R354), where nothing is deliverable any more after the entry's spills: it is counted, and a context that was not
running is as it was, the scheduler choosing again. -/
def nullEntry (s : Site) (n : Entry) (b : Blk) : Blk :=
  let b := count (aF s.field 0x106) b
  if n.ran then b
  else onEng s.e (fun x => { x with run := none, pf := [] })
    (onCtx s.e s.c (fun y => { y with ps := y.ps ||| (n.ps &&& 0x0800) }) b)

/-- The entry that context c takes: the one in progress, or one that begins at this boundary. -/
def entryOf (s : Site) (b : Blk) : Entry :=
  (engOf b s.e).entry.getD { ctx := s.c, ran := decide ((engOf b s.e).run = some s.c), ps := (s.ctx b).ps }

/-- An entry into context c: switch, room for the frame and the claim value (R355), then the frame, with the PS that the context had
and the flags of its operations in flight (R266), and the vector. -/
def enterEvent (s : Site) (b : Blk) : Rs :=
  let n := entryOf s b
  match micros b s.field (if (engOf b s.e).run = some s.c then [seqEntry .event] else [seqEntry .event, seqEntry .switch]) with
  | .check k a m _ => .check k a m b
  | .idle => .wait b
  | .fine =>
  let b := onEng s.e (fun x => { x with entry := some n }) (switchIn s.e s.c b)
  ((roomRet s 0 3 b).next (roomData s 0 1)).then (fun b =>
    let b := onEng s.e (fun x => { x with entry := none }) b
    match topSource b s.field (locOf s.e) s.c with
    | some q => .leave (takeSource s q (pushFrame s (psSettled b s.e s.c ||| (n.ps &&& 0x0800)) (s.ctx b) b))
    | none => .leave (nullEntry s n b))

/-- The outcome of an entry: a trap is the interrupted context's (R355). After a cell spilled the entry goes on (R351). -/
def finishEntry (s : Site) : Rs → Blk
  | .trap k i b => endStep s.e (takeTrap s k i b)
  | .leave b => endStep s.e (spent s b)
  | .part b => b
  | .wait b => b
  | .check k a n b => machineCheck s.e k a n 509 b
  | .done b => b
  | .jump _ b => b

/-- EVENT_ENTRY (R351, R370): at a boundary, into the context that the scheduler takes. -/
def eventEntryEff (e : Nat) (b : Blk) : Blk :=
  let b := overrunIfLate (fldOf e) b
  if mayIssue b e = false then b
  else
    match pick b e with
    | some (c, true) =>
      let b := newTurn e b
      finishEntry (siteAt b e c) (enterEvent (siteAt b e c) b)
    | _ => b

def execEventEntry (e : Nat) (s : State) := run (eventEntryEff e) s

/-! RETE (R208, R357, R358). -/

/-- RETE in FE (R208): to the context of TCAUSE, with PS := TPS, at TPC; it completes the abandonment of a C0 whose slot was
lost meanwhile. A PS flag still to come is written first (R266). -/
def reteFe (s : Site) (b : Blk) : Blk :=
  let tc := reg b (aE s.e 0x04)
  let c := fld tc 10 3
  let b := settleLast (lopFlags c 0x3FFF) s.e b
  let x := engOf b s.e
  if x.abandFE then
    let b := onCtx s.e 0 (fun y => { y with state := 0, mip := false, mprog := 0, mfree := false }) b
    let b := endLock s.e 0 (dropLops s.e 0 (orReg (aE s.e 0x01) 0x20 b))
    onEng s.e (fun x => { x with abandFE := false }) (stopRun s.e b)
  else
    let b := switchIn s.e c b
    refreshLines s.field (onCtx s.e c (fun y => { y with pc := wid s.tw x.tpc, sylb := bit tc 13, ps := x.tps &&& 0x3FFE }) b)

/-- PS as RETE restores it from a frame (R357): FPA stays, and at user level K and IE stay too (R185). -/
def restoredPs (kern : Bool) (f : BitVec 14) (ps : BitVec 14) : BitVec 14 :=
  let keep : BitVec 14 := if kern then 0x0800 else 0x3800
  ((f &&& ~~~keep) ||| (ps &&& keep)) &&& 0x3FFE

/-- The restored PS and level of context c, the frame being left on the return stack. -/
def restoreFrame (s : Site) (b : Blk) : Blk :=
  let lv := (s.rarg b 0).v
  let ps := lo14 (s.rarg b 1).v
  setEvLevel s.field (locOf s.e) s.c (fld lv 0 9) (onCtx s.e s.c (fun y => { y with ps := restoredPs s.kern ps y.ps }) b)

/-- A plain RETE (R357): PS and the level are restored, the frame is popped, and the context resumes, or goes IDLE. -/
def plainRete (s : Site) (b : Blk) : Blk :=
  let lv := (s.rarg b 0).v
  let pc := (s.rarg b 2).v
  let b := putRet s 3 [] (restoreFrame s b)
  let b := onCtx s.e s.c (fun y => { y with pc := s.addr pc, sylb := bit lv 13, state := if bit lv 12 then 0 else y.state }) b
  let b := onEng s.e (fun x => { x with pf := [] }) (if bit lv 12 then stopRun s.e b else b)
  refreshLines s.field b

/-- RETE of a handler: PS flags still to come are written first (R266); then a direct entry when a source above the restored level is deliverable (R358), else a plain RETE; a null
direct entry is counted and completes as one (R354). A locked sequence ends as RETE commits (R232). -/
def reteHandler (s : Site) (b : Blk) : Rs :=
  let b := settleLast (lopFlags s.c 0x3FFF) s.e b
  if called (restoreFrame s b) s.e s.c then
    (roomData s 0 1 b).then (fun b =>
      let b := endLock s.e s.c b
      let d := restoreFrame s b
      match topSource d s.field (locOf s.e) s.c with
      | some q => .leave (takeSource s q d)
      | none => .leave (plainRete s (count (aF s.field 0x106) b)))
  else .leave (plainRete s (endLock s.e s.c b))

def reteSyl : Syl :=
  { bad := illegalIn [0], body := fun s b =>
      match micro b s.field (seqEntry .switch) with
      | .fine => .leave (reteFe s b)
      | .idle => .wait b
      | .check k a n _ => .check k a n b }
def reteHandlerSyl : Syl :=
  { bad := illegalIn [0], rin := 3, rout := 3, rpoi := [(2, 5), (1, 6), (0, 6)], body := reteHandler }

/-- RETE in the context that is to run: the frame is checked in C1 to C3 alone. -/
def reteIn (b : Blk) (e : Nat) : Syl :=
  match pick (overrunIfLate (fldOf e) b) e with
  | some (0, _) => reteSyl
  | some (4, _) => reteSyl
  | _ => reteHandlerSyl

def execRete (e : Nat) (s : State) := run (fun b => syllable 0x4B (reteIn b e) e b) s

/-! Turns and idling (R369, R373). -/

/-- QUANTUM_EXPIRE: the running context, not FE and not a slot program, ends its turn (R369). -/
def quantumEff (e : Nat) (b : Blk) : Blk :=
  let x := engOf b e
  match x.run with
  | some c =>
    if engRuns b e = true ∧ c ≤ 3 ∧ 0 < fld (reg b (aE e 0x20)) 10 4 ∧ ¬ (c = 0 ∧ isMember b e = true) then
      onEng e (fun x => { x with turnOver := true, lastRan := c }) b
    else b
  | none => b

/-- IDLE_CYCLE: a field cycle in which engine e runs and has no context to run (R367, R373); a starved context is counted
(R368). A debug step ends when nothing is runnable (R539). -/
def idleCycleEff (e : Nat) (b : Blk) : Blk :=
  let b := overrunIfLate (fldOf e) b
  if engRuns b e = true ∧ (pick b e).isNone = true then
    let b := if (engOf b e).run.isSome then stopRun e b else b
    if (engOf b e).stepping then haltNow e 2 b
    else
      starveCount (fldOf e) (debitCycles e 5 24 1 b)
  else b

def execQuantumExpire (e : Nat) (s : State) := run (quantumEff e) s
def execIdleCycle (e : Nat) (s : State) := run (idleCycleEff e) s

end Sys2Proof.Machine
end

