-- ==== Sys2Proof/Machine/System.lean ====
section
/-! DEFINITION. The system syllables and the extended operations of class Sys, with EVCLAIM and EVDONE (R210, R212, R241 to
R246, R254). -/

namespace Sys2Proof.Machine

/-! MFC, MTC (R210). -/

/-- Registers that user level may read with MFC, and write with MTC (R210, R197). -/
def userMfc (n : Nat) : Bool := decide (n = 0x15) || decide (n = 0x0E) || decide (n = 0x0F) || (decide (64 ≤ n) && decide (n < 80))
def userMtc (s : Site) (b : Blk) (n : Nat) : Bool :=
  decide (n = 65) || decide (n = 76) || (decide (72 ≤ n) && decide (n < 76) && bit (reg b (aE s.e 0x0A)) (n - 72))

/-- MFC: engine register n, with the side effect of its read, or context register n − 64 of the running context. -/
def mfcSyl : Syl :=
  { dout := 1
    bad := fun s _ => if s.kern = false ∧ userMfc s.partner = false then some (4, s.sylInfo) else none
    chk := fun s b => if s.partner < 64 then ownDrained s.e s.c b else .ok b
    body := fun s b =>
      let n := s.partner
      if n < 64 then
        let x := engValue b s.master s.e n
        .done (pay s 5 (putData s 0 [scP (wid s.tw x.1) x.2] (regRead s.master (aE s.e n) b).2))
      else
        let b := settleReg s.e s.c (n - 64) b
        let x := ctxReg b s.e s.c (n - 64)
        .done (putData s 0 [scP (wid s.tw x.1) x.2] b) }

/-- The PS that a write gives (R185): user level keeps K, IE and FPA. -/
def writtenPs (kern : Bool) (v : BitVec 14) (ps : BitVec 14) : BitVec 14 := if kern then v else (v &&& 0x07FF) ||| (ps &&& 0x3800)

/-- A write of engine register n by the engine itself: TPC at full width (R328). -/
def ownRegWrite (s : Site) (n : Nat) (v : BitVec 28) (b : Blk) : Blk :=
  if n = 5 then onEng s.e (fun x => { x with tpc := wid s.tw v }) b else regWrite s.master (aE s.e n) none (clean (lo14 v)) b

/-- MTC ( v -- ): engine register n, or context register n − 64 of the running context, after the operand is popped; a write of
PC transfers control. -/
def mtcSyl : Syl :=
  { din := 1, poi := [(0, 6)]
    bad := fun s b => if s.kern = false ∧ userMtc s b s.partner = false then some (4, s.sylInfo) else none
    chk := fun s b => if s.partner < 64 then ownDrained s.e s.c b else .ok b
    body := fun s b =>
      let n := s.partner
      let v := (s.arg b 0).v
      let b := putData s 1 [] b
      if n < 64 then .done (pay s 5 (ownRegWrite s n v b))
      else
        let b := settleReg s.e s.c (n - 64) b
        if n = 64 then .jump v b
        else if n = 65 then
          .done (writeCtx s.e s.c 1 ((writtenPs s.kern (lo14 v) (s.ctx b).ps).setWidth 28) false b)
        else .done (writeCtx s.e s.c (n - 64) v false b) }

def execMfc (e : Nat) (s : State) := run (syllable 0x75 mfcSyl e) s
def execMtc (e : Nat) (s : State) := run (syllable 0x76 mtcSyl e) s

/-! CTXRD, CTXWR (R210, R212). -/

/-- A context above 4 or an index above 63 is illegal (R210, R254); operands i and j name them. -/
def badCtx (i j : Nat) (s : Site) (b : Blk) : Option (Nat × BitVec 28) :=
  let l := (s.ctx b).data
  let past (k m : Nat) : Bool := match l[k]? with
    | some x => decide (m < uval s.tw x.v)
    | none => false
  if past i 4 || past j 63 then some (3, s.sylInfo) else none

def ctxrdSyl : Syl :=
  { din := 2, dout := 1, kernel := true, bad := badCtx 1 0, poi := [(0, 3), (1, 3)], body := fun s b =>
      let b := settleReg s.e (uval s.tw (s.arg b 1).v) (uval s.tw (s.arg b 0).v) b
      let x := ctxReg b s.e (uval s.tw (s.arg b 1).v) (uval s.tw (s.arg b 0).v)
      .done (putData s 2 [scP (wid s.tw x.1) x.2] b) }

/-- CTXWR ( v ctx reg -- ). To the own context it waits for a pending flag as any syllable that writes one (R306), not to another
(R267). -/
def ctxwrSyl : Syl :=
  { din := 3, kernel := true, bad := badCtx 1 0, poi := [(0, 3), (1, 3), (2, 6)], body := fun s b =>
      let c := uval s.tw (s.arg b 1).v
      let i := uval s.tw (s.arg b 0).v
      let v := (s.arg b 2).v
      let b := putData s 3 [] b
      .done (ctxWrite s.e c i v false (if c = s.c then settleReg s.e c i b else b)) }

def execCtxrd (e : Nat) (s : State) := run (syllable (128 + 0x12) ctxrdSyl e) s
def execCtxwr (e : Nat) (s : State) := run (syllable (128 + 0x13) ctxwrSyl e) s

/-! Views, rounding, cycles (R197, R246). -/

def setviewSyl : Syl :=
  { din := 2, poi := [(0, 2), (1, 2)]
    bad := fun s b => match (s.ctx b).data[0]? with
      | some n => if s.kern = false ∧ bit (reg b (aE s.e 0x0A)) (fld n.v 0 2) = false then some (4, s.sylInfo) else none
      | none => none
    body := fun s b =>
      let n := fld (s.arg b 0).v 0 2
      let p := wid s.tw (s.arg b 1).v
      .done (onCtx s.e s.c (fun y => { y with views := upd (fun _ => p) y.views n }) (putData s 2 [] b)) }

def getviewSyl : Syl :=
  { din := 1, dout := 1, poi := [(0, 2)], body := fun s b =>
      .done (putData s 1 [sc (nth 0 (s.ctx b).views (fld (s.arg b 0).v 0 2))] b) }

/-- SETRM: the mode it replaces may still hold for a float operation before the SYNC (R268). -/
def setrmSyl : Syl :=
  { din := 1, poi := [(0, 6)], body := fun s b =>
      let m := fld (s.arg b 0).v 0 2
      .done (onCtx s.e s.c (fun y => { y with ps := putf y.ps 9 2 m, rmOld := some (psRM y) }) (putData s 1 [] b)) }

/-- CYCLES ( -- lo hi ): from one instant, leaving every latch alone. -/
def cyclesSyl : Syl :=
  { dout := 2, body := fun s b =>
      let n := (engOf b s.e).cyc
      .done (putData s 0 [sc14 (hi14 n), sc14 (lo14 n)] b) }

def execSetview (e : Nat) (s : State) := run (syllable (128 + 0x10) setviewSyl e) s
def execGetview (e : Nat) (s : State) := run (syllable (128 + 0x11) getviewSyl e) s
def execSetrm (e : Nat) (s : State) := run (syllable (128 + 0x14) setrmSyl e) s
def execCycles (e : Nat) (s : State) := run (syllable (128 + 0x15) cyclesSyl e) s

/-! EVCLAIM, EVDONE (R246, R331). -/

/-- The register of the engine's own index, whatever the views map. -/
def evAddr (s : Site) (base : Nat) : Nat := aF s.field (base + locOf s.e)

def evclaimSyl : Syl :=
  { dout := 1, chk := fun s b => ownDrained s.e s.c b, body := fun s b =>
      let a := evAddr s 0x110
      let x := regRead s.master a b
      .done (pay s 5 (putData s 0 [scP (x.1.v.setWidth 28) x.1.p] (watch s false false [(a, x.1)] x.2))) }

def evdoneSyl : Syl :=
  { din := 1, poi := [(0, 6)], chk := fun s b => roomFor s.e 1 b, body := fun s b =>
      let w := (evAddr s 0x118, clean (lo14 (s.arg b 0).v))
      .done (pay s 5 (watch s true false [w] (putStore s [w] (putData s 1 [] b)))) }

def execEvclaim (e : Nat) (s : State) := run (syllable (128 + 0x08) evclaimSyl e) s
def execEvdone (e : Nat) (s : State) := run (syllable (128 + 0x09) evdoneSyl e) s

/-! SYNC, ISYNC, DBGBRK, STIM, ILLEGAL (R242 to R244, R254, R540). -/

/-- Every earlier write has taken effect, the rounding mode with them (R242, R268). -/
def synced (s : Site) (b : Blk) : Blk := onCtx s.e s.c (fun y => { y with rmOld := none }) b

def syncSyl : Syl := { chk := fun s b => synchronized s.e s.c b, body := fun s b => .done (synced s b) }
/-- ISYNC also discards the prefetched cells; syllable B of its cell executes as it was fetched (R243). -/
def isyncSyl : Syl :=
  { chk := fun s b => synchronized s.e s.c b, body := fun s b =>
      .done (onEng s.e (fun x => { x with pf := x.pf.filter (fun p => decide (p.a = s.pc)) }) (synced s b)) }

/-- DBGBRK halts with BRKEN, else it traps (R540). -/
def dbgbrkSyl : Syl :=
  { body := fun s b =>
      if bit (reg b (aE s.e 0x30)) 5 then .done (onEng s.e (fun x => { x with haltReq := some (x.haltReq.getD 4) }) b)
      else .trap 19 0 b }

/-- STIM ( x -- ): a KIND 0 packet, the operand's P with it (R244, R549, R550). -/
def stimSyl : Syl :=
  { din := 1, body := fun s b =>
      let x := s.arg b 0
      .done (stimulus 0 s.field (locOf s.e) (s.partner % 32) { v := lo14 x.v, p := x.p } (putData s 1 [] b)) }

/-- ILLEGAL and every encoding that R254 makes illegal: TINFO holds the cell where R254 says so. -/
def illegalSyl : Syl :=
  { bad := fun s _ => some (3, if cellIllegal s.cell then s.cellInfo else s.sylInfo), body := fun _ b => .done b }

def execSync (e : Nat) (s : State) := run (syllable 0x73 syncSyl e) s
def execIsync (e : Nat) (s : State) := run (syllable 0x74 isyncSyl e) s
def execDbgbrk (e : Nat) (s : State) := run (syllable 0x7C dbgbrkSyl e) s
def execStim (e : Nat) (s : State) := run (syllable 0x7D stimSyl e) s
def execIllegal (e : Nat) (s : State) := run (syllable 0x7F illegalSyl e) s

end Sys2Proof.Machine
end

