-- ==== Sys2Proof/Machine/Power.lean ====
section
/-! DEFINITION. Power, resets, bring-up and block modes as events (chapter 16), the field power handshake (R506, R507), KILL_N,
waking (R390), and the governor's ticks, windows and level steps (chapter 12). -/

namespace Sys2Proof.Machine

/-! Resets and bring-up (R481, R490 to R493, R501 to R504). -/

/-- PORESET_N is released: COLD starts (R481). -/
def poresetReleaseEff (b : Blk) : Blk := if b.md.off then coldReset .pin b else b

/-- A warm reset is possible in every mode but OFF and COLD (R481). -/
def warmStart (cause : ResetCause) (b : Blk) : Blk := if modeOf b = 0 ∨ modeOf b = 1 then b else warmReset cause b

/-- A cold reset other than by PORESET_N (R491). -/
def coldStart (cause : ResetCause) (b : Blk) : Blk := if cause = .pin then b else coldReset cause b

/-- The engine's committed stores drain (R301); none is left at the end of a warm reset. -/
def settleStores (e : Nat) (b : Blk) : Blk := (drainAll e b).getD b

/-- The clear of every memory that is being cleared ends (R410): in COLD it waits for fields that still come up (R501); a
field whose field-wake reset ends is powered (R494, R507). -/
def clearComplete (b : Blk) : Blk :=
  let done (g : Field) : Field :=
    match g.pwr with
    | .on => { g with clearing := false }
    | .waking => { g with pwr := .on, clearing := false }
    | .off => g
    | .rising => g
  let b := { b with fields := mapAll done b.fields }
  if (List.range (nFields b)).all (fun f => (fieldOf b f).pwr != .rising) then
    onMd (fun m => { m with clearWait := false, fabClear := false }) b
  else b

/-- A fuse record is valid (R492). -/
def fuseValid (record : List BCell) : Bool :=
  decide (record.length = 45) && record.all (fun c => !c.p) &&
  decide ((nth absentCell record 0).v = 0x0F01) && decide (sumN (record.map (fun c => c.v.toNat)) % 16384 = 0)

/-- Load the CAL set and STW.BOOT from a valid record (R391, R492). -/
def fuseLoad (record : List BCell) (b : Blk) : Blk :=
  let b := each (fun i b => setReg (aB (0x100 + i)) (nth absentCell record (i + 1)).v b) (List.range 42) b
  setReg (aB 0x145) (nth absentCell record 43).v (setReg (aB 0x12A) 0 b)

/-- The generic defaults load (R391, R393): the registers stand at them after a cold reset. -/
def fuseDefaults (b : Blk) : Blk :=
  let b := each (fun i b => setReg (aB (0x100 + i)) (coldReg (aB (0x100 + i))) b) (List.range 42) b
  setReg (aB 0x145) 0x3FFF (setReg (aB 0x12A) 1 b)

/-- The fuse load ends, with FUSESTAT as given (R492, R495). -/
def fuseEnd (stat : Nat) (b : Blk) : Blk :=
  setReg (aB 0x009) (BitVec.ofNat 14 stat) (onMd (fun m => { m with fuseWait := false }) b)

def fuseLoadEff (present : Bool) (record : List BCell) (b : Blk) : Blk :=
  if modeOf b = 1 ∧ b.md.fuseWait = true then
    if present ∧ fuseValid record = true then fuseEnd 3 (fuseLoad record b) else fuseEnd (b2n present) (fuseDefaults b)
  else b

/-- R492: with no storage present there is no request that could time out. -/
def fuseTimeoutEff (present : Bool) (b : Blk) : Blk :=
  if modeOf b = 1 ∧ b.md.fuseWait = true ∧ present = true then fuseEnd 5 (fuseDefaults b) else b

/-- A boot link that the configuration has is set to fabric role, enabled, and trains (R473). -/
def bootLink (l : Nat) (b : Blk) : Blk :=
  if l < nLinks b then linkCtlWrite l (putf (reg b (aL l 0)) 2 2 1 ||| 0x101) b else b

/-- COLD ends (R492): in CONFIG, or in SAFESTOP when KILL_N was asserted (R483); then the boot links train (R473). -/
def coldCompleteEff (b : Blk) : Blk :=
  if modeOf b = 1 ∧ b.md.fuseWait = false ∧ b.md.clearWait = false then
    let kill := b.md.killPend || b.md.killLow
    let b := onMd (fun m => { m with killPend := false }) b
    let b := if kill then safeStop true b else enterMode 2 b
    bootLink (fld (reg b (aB 0x145)) 0 7) (bootLink (fld (reg b (aB 0x145)) 7 7) b)
  else b

/-! KILL_N (R388, R483, R487, R503). -/

def killEff (low : Bool) (b : Blk) : Blk :=
  let b := onMd (fun m => { m with killLow := low }) b
  if low = false ∨ b.md.off = true then b
  else if modeOf b = 1 then onMd (fun m => { m with killPend := true }) b
  else safeStop true b

/-! The field power handshake (R501, R506, R507). -/

/-- PSW_ACK of a field that asked for power rises: the field-wake reset starts, or in COLD its part of the clear. -/
def ackRise (f : Nat) (b : Blk) : Blk :=
  if (fieldOf b f).pwr = .rising then
    if modeOf b = 1 then onField f (fun g => { g with pwr := .on }) b else fieldWake f b
  else b

/-- PSW_ACK falls after PSW_REQ fell: field f is off, its contents are lost, and it asks for power again where FPWR wants it. -/
def ackFall (f : Nat) (b : Blk) : Blk :=
  if f < nFields b ∧ bit b.pswReq f = false ∧ (fieldOf b f).pwr ≠ .off then
    let again := bit (reg b (aB 0x007)) f
    let b := clearFieldMem f b
    let b := onField f (fun g => { Field.cold with
      pwr := if again then .rising else .off, clk := g.clk, bad := g.bad, ctrl := g.ctrl, fclk := g.fclk, cur := g.cur, step := g.step, code := g.code }) b
    let b := each (fun k b => hmForget (8 * f + k) (onEng (8 * f + k) (fun _ => Engine.cold) b)) (List.range 8) b
    let b := onTb (fun t => { t with decq := t.decq.filter (fun x => x.f != f) }) b
    if again then { b with pswReq := b.pswReq ||| (1 <<< f) } else b
  else b

/-! The governor (R377 to R380, R386). -/

/-- A window of 64 ticks ends (R380): with ISEN in force K is computed again; ISEN changes take effect here. Nothing is updated
while the governor is frozen (R548). -/
def windowEnd (b : Blk) : Blk :=
  let k := windowK b.gov.emeas (emodOf b)
  let b := if b.gov.isen = false ∨ frozen b 9 = true then b
    else if b.gov.emeas = 0 then orReg (aB 0x0C1) 2 b
    else if emodOf b < 1024 then b
    else if k < 512 ∨ 2048 < k then
      raiseFields 458 (orReg (aB 0x0C1) 4 (setReg (aB 0x0C9) (BitVec.ofNat 14 (max 512 (min 2048 k))) b))
    else setReg (aB 0x0C9) (BitVec.ofNat 14 k) b
  let isen := bit (reg b (aB 0x0C0)) 0
  let b := if b.gov.isen = true ∧ isen = false ∧ frozen b 9 = false then setReg (aB 0x0C9) (BitVec.ofNat 14 (marginK b)) b else b
  let b := onGov (fun g => { g with tick := 0, emeas := 0, isen := isen }) b
  { b with fields := mapAll (fun g => { g with emod := 0 }) b.fields }

/-- TCRIT on two consecutive ticks of a field (R378). -/
def overheated (b : Blk) : Bool := (List.range (nFields b)).any (fun f => decide (2 ≤ (fieldOf b f).hot))

/-- A governor tick (R377, R378, R380, R387): the codes are sampled, but for the thermal check in WATCH. -/
def govTickEff (temps : List (BitVec 10)) (isense : BitVec 12) (b : Blk) : Blk :=
  let b := if 64 ≤ b.gov.tick then windowEnd b else b
  let b := onGov (fun g => { g with
    tick := g.tick + 1, emeas := g.emeas + isense.toNat * (reg b (aB 0x128)).toNat }) b
  let b := each (fun f b => govField f (nth 0 temps f) b) (List.range (nFields b)) b
  let b := if modeOf b ≠ 9 ∧ overheated b = true then
      let b := orReg (aB 0x0C1) 1 b
      if modeOf b = 1 ∨ modeOf b = 11 then b else safeStop false b
    else b
  powerRelease b

/-- The RAMPSTEP gap has passed (R386): the lowest field that may step does; in SAFESTOP a field that reaches level 0 stops its
engines (R489), and a field whose power is no longer wanted is released there (R389). -/
def levelStepEff (b : Blk) : Blk :=
  if frozen b 9 then b
  else
    match stepField b with
    | some f => powerRelease (wakeSettle (stopAtZero f (stepLevel f b)))
    | none => b

/-! HOLD (R485, R486). -/

def holdEntryEff (b : Blk) : Blk :=
  if frozen b 8 ∧ 2 ≤ modeOf b ∧ modeOf b ≤ 7 then enterMode 8 (onMd (fun m => { m with holdFrom := modeOf b }) b) else b

/-- R481: the mode left, or ACQUIRE when that was LOCKED. -/
def holdExitEff (b : Blk) : Blk :=
  if modeOf b = 8 ∧ frozen b 8 = false then enterMode (if b.md.holdFrom = 6 then 5 else b.md.holdFrom) b else b

/-! DRAIN, WATCH and SELFTEST (R484, R487, R488). -/

/-- The drain ends when every BUSY reads 0 (R481, R484); for WATCH the entry steps of R487 follow. -/
def drainCompleteEff (b : Blk) : Blk :=
  match b.md.drainTo with
  | some t =>
    if modeOf b = 7 ∧ anyBusy b = false then
      let b := onMd (fun m => { m with drainTo := none, drainWait := false, watchEntry := decide (t = 9) }) b
      if t = 9 then b else enterMode t b
    else b
  | none => b

/-- WATCH is entered (R487): the sinters have restored, the sleep count restarts, the field clocks and the timebase stop, and a
watched source that is pending requests a wake at once (R360). -/
def watchEntryEff (b : Blk) : Blk :=
  if b.md.watchEntry = true ∧ slotsActive b = false then
    let b := each (fun f b => if powered b f then sinterHome f b else b) (List.range (nFields b)) b
    let b := enterMode 9 (onMd (fun m => { m with watchEntry := false, sleep := 0 }) b)
    watchPending { b with fields := mapAll (fun g => { g with clk := false }) b.fields }
  else b

/-- A field of a wake that is off asks for power (R390, R506). -/
def wakePower (f : Nat) (b : Blk) : Blk :=
  if (fieldOf b f).pwr = .off then
    { onField f (fun g => { g with pwr := .rising }) b with pswReq := b.pswReq ||| (1 <<< f) }
  else b

/-- The clocks restart after a stay of t slow ticks in WATCH (R84, R384, R390): the counters and the deadline timers are made
up, the block enters WAKEMODE, and the raises that the fumarole took are replayed (R360). -/
def wakeClocks (ticks : Nat) (b : Blk) : Blk :=
  let t := min (2 ^ 28 - 1) (max ticks b.md.sleep)
  let b := if t = 2 ^ 28 - 1 then orReg (aB 0x1C7) 2 b else b
  let b := onMd (fun m => { m with sleep := t }) b
  let b := { b with fields := mapAll (fun g => { g with clk := true }) b.fields }
  let m := makeupSlots b t
  let b := makeup m b
  let b := each (fun e b => if clocked b (fldOf e) then
      promote e (deadlineMakeup m e 3 (deadlineMakeup m e 2 (deadlineMakeup m e 1 b))) else b) (List.range (nEngines b)) b
  let b := enterMode (wakeMode b) b
  let rs := b.replay
  raiseAll rs { b with replay := [] }

/-- WAKE (R390): fields that are off are powered up first, and the rest follows when their field-wake resets have ended. -/
def wakeEff (ticks : Nat) (b : Blk) : Blk :=
  if b.md.wakeReq then
    let fs := wakeFields b
    if fs.all (fun f => powered b f) then
      let byList := b.md.byList
      let b := if modeOf b = 9 then wakeClocks ticks b else b
      let b := setReg (aB 0x1C7) (putb (reg b (aB 0x1C7)) 0 byList) b
      let b := setReg (aB 0x1C9) (BitVec.ofNat 14 (256 + sumN (fs.map (fun f => 2 ^ f)))) b
      wakeSettle (onMd (fun m => { m with wakeReq := false, byList := false }) (each (setTarget · 8) fs b))
    else each wakePower fs b
  else b

/-- The sleep count saturates while the block is in WATCH (R362). -/
def sleepSaturates (b : Blk) : Blk :=
  if modeOf b = 9 then orReg (aB 0x1C7) 2 (onMd (fun m => { m with sleep := 2 ^ 28 - 1 }) b) else b

/-- A fault holds a bit of one of the words in [lo, hi). -/
def stuckIn (b : Blk) (lo hi : Nat) : Bool := b.stuck.any (fun x => decide (lo ≤ x.1) && decide (x.1 < hi) && x.2 != 0)

/-- Some memory of field f holds such a bit (R488). -/
def fieldFails (b : Blk) (f : Nat) : Bool :=
  (fieldOf b f).bad.any (fun x => x.2 != 0) || stuckIn b (0x80000 + f * 0x8000) (0x88000 + f * 0x8000) ||
  stuckIn b (0x100000 + f * 0x20000) (0x120000 + f * 0x20000) || stuckIn b (0x200000 + f * 0x800) (0x200800 + f * 0x800) ||
  stuckIn b (0x220000 + f * 0x400) (0x220400 + f * 0x400)

/-- The self-test ends (R488): a memory fails where a fault holds a bit; every tested memory is cleared to the all-zero word. -/
def selftestEff (b : Blk) : Blk :=
  if modeOf b = 10 then
    let fails := sumN ((List.range (nFields b)).map (fun f => 2 ^ f * b2n (powered b f && fieldFails b f)))
      + 2 ^ 8 * b2n (stuckIn b 0x210000 0x212000)
    let b := each (fun f b => if powered b f then clearFieldMem f b else b) (List.range (nFields b)) b
    let b := { b with mem := kclear b.mem 0x210000 0x212000 }
    enterMode 2 (setReg (aB 0x00A) (BitVec.ofNat 14 (0x2000 + fails)) b)
  else b

/-! The commands. -/

/-- PORESET_ASSERT (R501, R505). -/
def execPoresetAssert (s : State) := runPin powerOff s
/-- PORESET_RELEASE (R481). -/
def execPoresetRelease (s : State) := runPin poresetReleaseEff s
/-- WRESET_N (R502). -/
def execWresetN (s : State) := run (fun b => warmStart .pin b) s
/-- WARM_RESET (R493). -/
def execWarmReset (cause : ResetCause) (s : State) := run (warmStart cause) s
/-- COLD_RESET (R491). -/
def execColdReset (cause : ResetCause) (s : State) := run (coldStart cause) s
/-- MEMORY_CLEAR_COMPLETE (R410). -/
def execMemoryClearComplete (s : State) := run clearComplete s
/-- FUSE_LOAD_COMPLETE (R492). -/
def execFuseLoadComplete (present : Bool) (record : List BCell) (s : State) := run (fuseLoadEff present record) s
/-- FUSE_TIMEOUT (R492). -/
def execFuseTimeout (present : Bool) (s : State) := run (fuseTimeoutEff present) s
/-- COLD_COMPLETE (R492). -/
def execColdComplete (s : State) := run coldCompleteEff s
/-- KILL_N (R388, R503): the level of the pin is known in OFF too. -/
def execKillN (low : Bool) (s : State) := runPin (killEff low) s
/-- DPOR_N (R491, R504, R553): the debug island alone. -/
def execDporN (s : State) :=
  runAuth (fun b => { b with
    tap := Tap.dpor, auth := Auth.dpor, regs := b.regs.filter (fun e => !(decide (0x0F00300 ≤ e.1 ∧ e.1 < 0x0F00400))) }) s
/-- PSW_ACK_RISE (R507). -/
def execPswAckRise (f : Nat) (s : State) := run (ackRise f) s
/-- PSW_ACK_FALL (R507). -/
def execPswAckFall (f : Nat) (s : State) := run (ackFall f) s
/-- GOV_TICK (R377). -/
def execGovTick (temps : List (BitVec 10)) (isense : BitVec 12) (s : State) := run (govTickEff temps isense) s
/-- K_WINDOW_END (R380). -/
def execKWindowEnd (s : State) := run (fun b => if 64 ≤ b.gov.tick then windowEnd b else b) s
/-- LEVEL_STEP (R386). -/
def execLevelStep (s : State) := run levelStepEff s
/-- HOLD_ENTRY (R486). -/
def execHoldEntry (s : State) := run holdEntryEff s
/-- HOLD_EXIT (R486). -/
def execHoldExit (s : State) := run holdExitEff s
/-- DRAIN_COMPLETE (R484). -/
def execDrainComplete (s : State) := run drainCompleteEff s
/-- WATCH_ENTRY_COMPLETE (R487). -/
def execWatchEntryComplete (s : State) := run watchEntryEff s
/-- WAKE (R390). -/
def execWake (ticks : Nat) (s : State) := run (wakeEff ticks) s
/-- SLEEP_COUNT_SATURATE (R362). -/
def execSleepCountSaturate (s : State) := run sleepSaturates s
/-- SELFTEST_COMPLETE (R488). -/
def execSelftestComplete (s : State) := run selftestEff s

end Sys2Proof.Machine
end

