-- ==== Sys2Proof/Machine/Regs.lean ====
section
/-! DEFINITION. The commands that read or write one register: each makes the access that Machine/Bus.lean describes, at its
own register. While a warm reset is in progress an access waits (R493): the command then does nothing, and acts when it comes
again. A command whose value is not the one its row names is no event (log entry 2). -/

namespace Sys2Proof.Machine

/-- The slot that a write by master m to field f's DECISION or PRIMQ belongs to (R47): that of the engine's C0 while it
runs. -/
def slotOfMaster (b : Blk) (f : Nat) : Master → Option Nat
  | .engine e => if fldOf e = f ∧ (engOf b e).run = some 0 then (engOf b e).slot else none
  | .host => none
  | .steward => none
  | .linkDma => none
  | .debug => none

/-- A register write by master m, where the command fits its row. -/
def regCmd (m : Master) (a : Nat) (c : BCell) (fits : Bool) (b : Blk) : Blk :=
  if b.md.warm ∨ fits = false then b else (regStore m a (slotOfMaster b ((a - 0x0F10000) / 0x1000) m) c b).2

/-- A register read by master m, where the register is of the row's kind. -/
def readCmd (m : Master) (a : Nat) (fits : Bool) (b : Blk) : Blk :=
  if b.md.warm ∨ fits = false then b else (regRead m a b).2

/-- A write by master m of a memory word, where it lies in [lo, hi). -/
def memCmd (m : Master) (a lo hi : Nat) (c : BCell) (b : Blk) : Blk :=
  if b.md.warm ∨ a < lo ∨ hi ≤ a then b else (busStore m a none c b).2

/-- Register a clears on reading (R17). -/
def isRc (a : Nat) : Bool := match regRow a with
  | some d => d.rc
  | none => false

/-- Some bit of [lo, lo + n) goes from 0 in `old` to 1 in `new`. -/
def rises (old new : BitVec 14) (n : Nat) : Bool := (List.range n).any (fun i => !(bit old i) && bit new i)

/-- RSTCTL's and DBG.RESET's value for an action (R491). -/
def keyed (action : Nat) : BCell := cleanN (0x2A5 * 16 + action)

/-- REGISTER_WRITE (R17). -/
def execRegisterWrite (m : Master) (a : Nat) (c : BCell) (s : State) := run (regCmd m (a) c (isRegAddr a)) s

/-- COUNTER_READ (R17). -/
def execCounterRead (m : Master) (a : Nat) (s : State) := run (readCmd m a (isRc a)) s

/-- WIDE_LO_READ (R68). -/
def execWideLoRead (m : Master) (a : Nat) (s : State) := run (fun b => readCmd m a (wideAt b a).isSome b) s

/-- CAPSLOT_READ (R73). -/
def execCapslotRead (m : Master) (k : Nat) (s : State) := run (readCmd m (aB (0x060 + 4 * k)) true) s

/-- TB_SPS_WRITE (R57). -/
def execTbSpsWrite (m : Master) (c : BCell) (s : State) := run (regCmd m (aB 0x042) c true) s

/-- TB_CTL_SWLD (R59). -/
def execTbCtlSwld (m : Master) (s : State) := run (regCmd m (aB 0x040) (cleanN 1) true) s

/-- TB_CTL_RTCLR (R60). -/
def execTbCtlRtclr (m : Master) (s : State) := run (regCmd m (aB 0x040) (cleanN 2) true) s

/-- GSTART_WRITE (R82, R83). -/
def execGstartWrite (m : Master) (c : BCell) (s : State) := run (regCmd m (aB 0x050) c true) s

/-- TMR_ENABLE (R79). -/
def execTmrEnable (m : Master) (f k : Nat) (c : BCell) (s : State) := run (regCmd m (aF f (0x140 + 4 * k)) c (bit c.v 0)) s

/-- TMR_PERIOD_WRITE (R80). -/
def execTmrPeriodWrite (m : Master) (f k : Nat) (c : BCell) (s : State) := run (regCmd m (aF f (0x142 + 4 * k)) c true) s

/-- MAPALIGN_WRITE (R128). -/
def execMapalignWrite (m : Master) (f : Nat) (c : BCell) (s : State) := run (regCmd m (aF f 0x042) c true) s

/-- MAPMASK_WRITE (R153). -/
def execMapmaskWrite (m : Master) (f j : Nat) (c : BCell) (s : State) := run (regCmd m (aF f (0x060 + j)) c true) s

/-- MATRING_WRITE (R173). -/
def execMatringWrite (m : Master) (f : Nat) (c : BCell) (s : State) := run (regCmd m (aF f 0x080) c true) s

/-- FCFG_WRITE (R480). -/
def execFcfgWrite (m : Master) (f : Nat) (c : BCell) (s : State) := run (regCmd m (aF f 0x000) c true) s

/-- ROT_WRITE (R29). -/
def execRotWrite (m : Master) (f : Nat) (c : BCell) (s : State) := run (regCmd m (aF f 0x003) c true) s

/-- DECISION_WRITE (R43, R47). -/
def execDecisionWrite (m : Master) (f : Nat) (c : BCell) (s : State) := run (regCmd m (aF f 0x006) c true) s

/-- PRIMQ_WRITE (R48). -/
def execPrimqWrite (m : Master) (f : Nat) (c : BCell) (s : State) := run (regCmd m (aF f 0x007) c true) s

/-- DOORBELL_WRITE (R335). -/
def execDoorbellWrite (m : Master) (f : Nat) (c : BCell) (s : State) := run (regCmd m (aF f 0x100) c true) s

/-- EVCLAIM_READ (R346). -/
def execEvclaimRead (m : Master) (f k : Nat) (s : State) := run (readCmd m (aF f (0x110 + k)) true) s

/-- EVDONE_WRITE (R347). -/
def execEvdoneWrite (m : Master) (f k : Nat) (c : BCell) (s : State) := run (regCmd m (aF f (0x118 + k)) c true) s

/-- SOURCE_TABLE_WRITE (R340). -/
def execSourceTableWrite (m : Master) (a : Nat) (c : BCell) (s : State) := run (memCmd m a 0x220000 0x222000 c) s

/-- ECCFLIPHI_ARM (R417). -/
def execEccfliphiArm (m : Master) (f : Nat) (c : BCell) (s : State) := run (regCmd m (aF f 0x1C3) c (bit c.v 13)) s

/-- ECTL_RUN_SET (R213). -/
def execEctlRunSet (m : Master) (e : Nat) (c : BCell) (s : State) := run (regCmd m (aE e 0x00) c (bit c.v 11)) s

/-- ECTL_RUN_CLEAR (R207, R213). -/
def execEctlRunClear (m : Master) (e : Nat) (c : BCell) (s : State) := run (regCmd m (aE e 0x00) c (!(bit c.v 11))) s

/-- CTXDATA_READ (R211). -/
def execCtxdataRead (m : Master) (e : Nat) (s : State) := run (readCmd m (aE e 0x03) true) s

/-- CTXDATA_WRITE (R211, R212). -/
def execCtxdataWrite (m : Master) (e : Nat) (c : BCell) (s : State) := run (regCmd m (aE e 0x03) c true) s

/-- PAIR_JOIN (R317, R318). -/
def execPairJoin (m : Master) (f : Nat) (c : BCell) (s : State) :=
  run (fun b => regCmd m (aF f 0x002) c (rises (twinmap b f) c.v 4) b) s

/-- PAIR_SEPARATE (R319). -/
def execPairSeparate (m : Master) (f : Nat) (c : BCell) (s : State) :=
  run (fun b => regCmd m (aF f 0x002) c (rises c.v (twinmap b f) 4) b) s

/-- DEADLINE_WRITE (R381). -/
def execDeadlineWrite (m : Master) (e n : Nat) (c : BCell) (s : State) := run (regCmd m (aE e (0x22 + n)) c true) s

/-- LEDCTL_FILL (R372). -/
def execLedctlFill (m : Master) (f : Nat) (s : State) := run (regCmd m (aF f 0x18E) (cleanN 1) true) s

/-- LEDCTL_ECLR (R383). -/
def execLedctlEclr (m : Master) (f : Nat) (s : State) := run (regCmd m (aF f 0x18E) (cleanN 2) true) s

/-- CAL_WRITE (R391); the values stand in the numbering of R469. -/
def execCalWrite (m : Master) (i : Nat) (c : BCell) (s : State) := run (regCmd m (aB (0x100 + i)) c true) s

/-- FAB_ID_WRITE (R120). -/
def execFabIdWrite (m : Master) (hi : Bool) (c : BCell) (s : State) := run (regCmd m (aB (0x182 + b2n hi)) c true) s

/-- ROUTE_ENTRY_WRITE (R124): a route-table entry, or a member register. -/
def execRouteEntryWrite (m : Master) (a : Nat) (c : BCell) (s : State) :=
  run (fun b =>
  if 0x0F001A0 ≤ a ∧ a < 0x0F001B0 then regCmd m a c true b else memCmd m a 0x210000 0x212000 c b) s

/-- LINK_ENABLE (R115). -/
def execLinkEnable (m : Master) (l : Nat) (c : BCell) (s : State) := run (regCmd m (aL l 0) c (bit c.v 0)) s

/-- LINK_DISABLE (R115). -/
def execLinkDisable (m : Master) (l : Nat) (c : BCell) (s : State) := run (regCmd m (aL l 0) c (!(bit c.v 0))) s

/-- RETRAIN (R118). -/
def execRetrain (m : Master) (l : Nat) (c : BCell) (s : State) := run (regCmd m (aL l 0) c (bit c.v 8)) s

/-- CMDIN_WRITE (R449). -/
def execCmdinWrite (m : Master) (c : BCell) (s : State) := run (regCmd m (aB 0x010) c true) s

/-- CMDOUT_READ (R453). -/
def execCmdoutRead (m : Master) (s : State) := run (readCmd m (aB 0x011) true) s

/-- CMDCTL_INFLUSH (R449). -/
def execCmdctlInflush (m : Master) (s : State) := run (regCmd m (aB 0x013) (cleanN 1) true) s

/-- CMDCTL_OUTFLUSH (R476). -/
def execCmdctlOutflush (m : Master) (s : State) := run (regCmd m (aB 0x013) (cleanN 2) true) s

/-- HOSTBELLSET_WRITE (R521). -/
def execHostbellsetWrite (m : Master) (c : BCell) (s : State) := run (regCmd m (aB 0x01A) c true) s

/-- RSTCTL_WARM (R491). -/
def execRstctlWarm (m : Master) (s : State) := run (regCmd m (aB 0x006) (keyed 1) true) s

/-- RSTCTL_COLD (R491). -/
def execRstctlCold (m : Master) (s : State) := run (regCmd m (aB 0x006) (keyed 2) true) s

/-- FPWR_ON (R494). -/
def execFpwrOn (m : Master) (c : BCell) (s : State) :=
  run (fun b => regCmd m (aB 0x007) c (rises (reg b (aB 0x007)) c.v (nFields b)) b) s

/-- FPWR_OFF (R494). -/
def execFpwrOff (m : Master) (c : BCell) (s : State) :=
  run (fun b => regCmd m (aB 0x007) c (rises c.v (reg b (aB 0x007)) (nFields b)) b) s

/-- MODE_REQ_CONFIG (R481). -/
def execModeReqConfig (m : Master) (s : State) := run (regCmd m (aB 0x001) (cleanN 2) true) s

/-- MODE_REQ_LINKUP (R481). -/
def execModeReqLinkup (m : Master) (s : State) := run (regCmd m (aB 0x001) (cleanN 3) true) s

/-- MODE_REQ_FREERUN (R481). -/
def execModeReqFreerun (m : Master) (s : State) := run (regCmd m (aB 0x001) (cleanN 4) true) s

/-- MODE_REQ_ACQUIRE (R481). -/
def execModeReqAcquire (m : Master) (s : State) := run (regCmd m (aB 0x001) (cleanN 5) true) s

/-- MODE_REQ_SELFTEST (R481). -/
def execModeReqSelftest (m : Master) (s : State) := run (regCmd m (aB 0x001) (cleanN 10) true) s

/-- MODE_REQ_WATCH (R481). -/
def execModeReqWatch (m : Master) (s : State) := run (regCmd m (aB 0x001) (cleanN 9) true) s

/-- MODE_REQ_SAFESTOP (R481). -/
def execModeReqSafestop (m : Master) (s : State) := run (regCmd m (aB 0x001) (cleanN 11) true) s

/-- MODE_REQ_WAKE (R487). -/
def execModeReqWake (m : Master) (s : State) :=
  run (fun b => regCmd m (aB 0x001) (cleanN (wakeMode b)) (decide (modeOf b = 9)) b) s

/-- FREEZE_WRITE (R548). -/
def execFreezeWrite (m : Master) (c : BCell) (s : State) := run (regCmd m (aB 0x302) c true) s

/-- HALTALL_HALT (R542). -/
def execHaltallHalt (m : Master) (c : BCell) (s : State) := run (regCmd m (aB 0x303) c (!(bit c.v 13))) s

/-- HALTALL_RELEASE (R542). -/
def execHaltallRelease (m : Master) (c : BCell) (s : State) := run (regCmd m (aB 0x303) c (bit c.v 13)) s

/-- DBG_RESET_WARM (R491, R553). -/
def execDbgResetWarm (m : Master) (s : State) := run (regCmd m (aB 0x304) (keyed 1) true) s

/-- DBG_RESET_COLD (R491, R553). -/
def execDbgResetCold (m : Master) (s : State) := run (regCmd m (aB 0x304) (keyed 2) true) s

/-- DBGCTL_HALT (R536). -/
def execDbgctlHalt (m : Master) (e : Nat) (c : BCell) (s : State) := run (regCmd m (aE e 0x30) c (bit c.v 0)) s

/-- DBGCTL_RELEASE (R538). -/
def execDbgctlRelease (m : Master) (e : Nat) (c : BCell) (s : State) := run (regCmd m (aE e 0x30) c (!(bit c.v 0))) s

/-- DBGCTL_FORCE (R537). -/
def execDbgctlForce (m : Master) (e : Nat) (c : BCell) (s : State) := run (regCmd m (aE e 0x30) c (bit c.v 1)) s

/-- DBGCTL_STEP (R539). -/
def execDbgctlStep (m : Master) (e : Nat) (c : BCell) (s : State) := run (regCmd m (aE e 0x30) c (bit c.v 2)) s

/-- STIM_WRITE (R550). -/
def execStimWrite (m : Master) (f n : Nat) (c : BCell) (s : State) := run (regCmd m (aF f (0x280 + n)) c true) s

/-- PCTL_LRESET (R441). -/
def execPctlLreset (m : Master) (s : State) := run (regCmd m (aB 0x204) (cleanN 1) true) s

/-- PLOAD_WRITE (R441). -/
def execPloadWrite (m : Master) (c : BCell) (s : State) := run (regCmd m (aB 0x206) c true) s

/-- PCTL_INSTALL (R441). -/
def execPctlInstall (m : Master) (s : State) := run (regCmd m (aB 0x204) (cleanN 2) true) s

end Sys2Proof.Machine
end

