-- ==== Sys2Proof/Machine/Steward.lean ====
section
/-! DEFINITION. The steward command interface (chapter 15): taking packets, the opcodes, and deferred commands. A command that
the spec lets take up to 1,000 governor ticks runs in one event; MODE, SWAPSET and PATCH INSTALL are deferred while what they
wait for has not come about, and a command that waits for a locked sequence, its engine or the host window stays in hand or is
deferred (R455; log entry 41). -/

namespace Sys2Proof.Machine

/-! The command in hand. -/

/-- The parameters of a command (R445): cells 2 to N + 1. -/
def args (c : Cmd) : List BCell := (c.cells.drop 2).take (cmdLen c)
def arg (c : Cmd) (i : Nat) : BCell := nth absentCell (args c) i
def argN (c : Cmd) (i : Nat) : Nat := (arg c i).v.toNat
/-- An address pair, or a count pair, from parameter i on (R459). -/
def argPair (c : Cmd) (i : Nat) : Nat := (pair (arg c i).v (arg c (i + 1)).v).toNat
def anyP (l : List BCell) : Bool := l.any (fun x => x.p)

/-- Whose access it is (R460): the steward's for a command from CMDIN, link DMA's for one from a CMD frame. -/
def cmdMaster (c : Cmd) : Master := if c.frame then .linkDma else .steward

/-- The opcodes that always complete within the bound (R459). -/
def quickOp (op : Nat) : Bool := [0x01, 0x02, 0x07, 0x0B, 0x0D, 0x0E, 0x11, 0x12].contains op

/-- The final reply of a command (R455): DONE takes the place of OK where it was answered ACCEPTED; and the steward has done with it. -/
def finish2 (c : Cmd) (status : Nat) (data : List BCell) (b : Blk) : Blk :=
  reply c (if c.late ∧ status = 0 then 2 else status) data (onStw (fun w =>
    if c.late then { w with defer := w.defer.filter (fun d => d.cmd.num != c.num) } else { w with cur := none }) b)

/-- A reset has ended the command (R475). -/
def dropped (c : Cmd) (b : Blk) : Bool :=
  if c.late then !(b.stw.defer.any (fun d => d.cmd.num == c.num)) else b.stw.cur.isNone

/-- Reply ACCEPTED and defer (R455). -/
def deferCmd (c : Cmd) (op goal : Nat) (data : List BCell) (b : Blk) : Blk :=
  let b := onStw (fun w => { w with cur := none, defer := w.defer ++ [{ cmd := c, op := op, goal := goal, data := data }] }) b
  reply c 1 [] b

/-- The command has to wait, having come as far as `c` says: it stays deferred, or, where it cannot complete within the bound, it is
answered ACCEPTED and deferred; else it stays in hand (R455; log entry 41). -/
def park (c : Cmd) (b : Blk) : Blk :=
  if c.late then
    onStw (fun w => { w with defer := w.defer.map (fun d => if d.cmd.num = c.num then { d with cmd := c } else d) }) b
  else
    let n := takeFree b
    if quickOp (cmdOp c) = false ∧ Config.overBound n.1 = true then deferCmd { c with late := true } (cmdOp c) 0 [] n.2
    else onStw (fun w => { w with cur := some c }) n.2

/-- The addresses that a command still waits to work on, up to the first that a locked sequence holds (R231). -/
def freeSpan (c : Cmd) (l : List Nat) (b : Blk) : List Nat := l.takeWhile (fun a => !(mustWait b (cmdMaster c) a))

/-- A number as a pair of cells, low first. -/
def pairCells (n : Nat) : List BCell := [cleanN n, cleanN (n / 16384)]

/-! Accesses (R460 to R462). -/

/-- The field island that holds an address, if one does (R557). -/
def islandField (a : Nat) : Option Nat :=
  if a < 0x80000 then some (a / 0x10000)
  else if a < 0xC0000 then some ((a - 0x80000) / 0x8000)
  else if a < 0x100000 then none
  else if a < 0x200000 then some ((a - 0x100000) / 0x20000)
  else if a < 0x204000 then some ((a - 0x200000) / 0x800)
  else if a < 0x220000 then none
  else if a < 0x222000 then some ((a - 0x220000) / 0x400)
  else if 0x0F10000 ≤ a ∧ a < 0x0F18000 then some ((a - 0x0F10000) / 0x1000)
  else if 0x0F20000 ≤ a ∧ a < 0x0F21000 then some ((a - 0x0F20000) / 0x200)
  else none

/-- The field is present, and off or stopped (R461). -/
def stoppedField (b : Blk) (f : Nat) : Bool := decide (f < nFields b) && !(clocked b f)

/-- The command may reach the host window (R460). -/
def mayWindow (c : Cmd) (b : Blk) : Bool := !c.frame || bit (reg b (aB 0x140)) 0

/-- Why an access is refused before it is made (R461): 6 DENIED, 7 WRONGMODE, or 0. -/
def barred (c : Cmd) (a : Nat) (b : Blk) : Nat :=
  if (0x0F00010 ≤ a ∧ a ≤ 0x0F00014) ∨ (isWindow a = true ∧ mayWindow c b = false) then 6
  else
    match islandField a with
    | some f => if stoppedField b f then 7 else 0
    | none => 0

/-- A range stays on one side of the host window's start, and within the address space (R460). -/
def rangeOk (a n : Nat) : Bool := decide (a + n ≤ 0x1000000) || (decide (0x1000000 ≤ a) && decide (a + n ≤ 2 ^ 28))

/-- The addresses of a range. -/
def span (a n : Nat) : List Nat := (List.range n).map (fun i => a + i)

/-- One read: the cell, the reason it failed or 0, and the block. -/
def stwRead (c : Cmd) (a : Nat) (b : Blk) : BCell × Nat × Blk :=
  let r := barred c a b
  if r ≠ 0 then (absentCell, r, b)
  else
    let x := busRead (cmdMaster c) a b
    if x.2.1 = 1 then (absentCell, 6, x.2.2) else (x.1, 0, x.2.2)

/-- Reads of a list of addresses, with their reasons. -/
def stwReads (c : Cmd) : List Nat → Blk → List (BCell × Nat) × Blk
  | [], b => ([], b)
  | a :: as, b =>
    let x := stwRead c a b
    let y := stwReads c as x.2.2
    ((x.1, x.2.1) :: y.1, y.2)

/-- The status of a READ (R462). -/
def readStatus (l : List (BCell × Nat)) : Nat :=
  if l.any (fun x => x.2 == 6) then 6
  else if l.any (fun x => x.2 == 7) then 7
  else if l.any (fun x => x.1.p) then 8
  else 0

/-- Accesses of the host window are queued for the host master port (R512). -/
def askHost (c : Cmd) (l : List Nat) (b : Blk) : Blk :=
  onHost (fun h => { h with
    hm := h.hm ++ l.map (fun a => { m := cmdMaster c, a := a, wr := false, cells := [], two := false, dead := false, ctx := c.num }) }) b

/-- One write: the reason it failed, or 0 (R461, R462). -/
def stwWrite (c : Cmd) (a : Nat) (v : BCell) (b : Blk) : Nat × Blk :=
  let r := barred c a b
  if r ≠ 0 then (r, b)
  else if isWindow a then
    (0, onHost (fun h => { h with
      hm := h.hm ++ [{ m := cmdMaster c, a := a, wr := true, cells := [v], two := false, dead := false, ctx := c.num }] }) b)
  else
    let x := busStore (cmdMaster c) a none v b
    (if x.1 = 1 then 6 else if x.1 = 2 then 8 else if x.1 = 3 then 3 else 0, x.2)

/-- Writes in order up to the first that fails (R462): how many were made, and the reason and address of the one that failed. A
write that resets the block ends the command (R475). -/
def stwWrites (c : Cmd) : List (Nat × BCell) → Nat → Blk → Nat × Option (Nat × Nat) × Blk
  | [], n, b => (n, none, b)
  | x :: xs, n, b =>
    let y := stwWrite c x.1 x.2 b
    if y.1 ≠ 0 then (n, some (y.1, x.1), y.2)
    else if dropped c y.2 then (n + 1, none, y.2)
    else stwWrites c xs (n + 1) y.2

/-- The reply to a command of writes (R462): `progress` counts cells or records, `made` whether any write was made. -/
def writeReply (c : Cmd) (progress : Nat) (made : Bool) (fail : Option (Nat × Nat)) (okData : List BCell) (b : Blk) : Blk :=
  if dropped c b then b
  else
    match fail with
    | none => finish2 c 0 okData b
    | some (reason, a) => finish2 c (if made then 9 else reason) (pairCells progress ++ [cleanN reason] ++ pairCells a) b

/-- Carry out the writes of a command that it has not made yet, and reply; it waits where a locked sequence holds the next (R231). -/
def doWrites (c : Cmd) (l : List (Nat × BCell)) (b : Blk) : Blk :=
  let rest := l.drop c.made
  let now := rest.take (freeSpan c (rest.map (fun x => x.1)) b).length
  let r := stwWrites c now c.made b
  if r.2.1.isNone ∧ now.length < rest.length ∧ dropped c r.2.2 = false then park { c with made := r.1 } r.2.2
  else writeReply c r.1 (decide (0 < r.1)) r.2.1 [] r.2.2

/-- Read the cells of a range that the command has not read yet: the command with them, and the block; it stops where a locked
sequence holds the next. -/
def readOn (c : Cmd) (l : List Nat) (b : Blk) : Cmd × Blk :=
  let r := stwReads c (freeSpan c (l.drop c.got.length) b) b
  ({ c with got := c.got ++ r.1 }, r.2)

/-! Deferral (R455, R456). -/

/-- The writes of the records of an image's body, record by record; none where a record is wrong. `fuel` bounds the records. -/
def records : Nat → List (BitVec 14) → Option (List (List (Nat × BCell)))
  | _, [] => some []
  | 0, _ :: _ => none
  | fuel + 1, lo :: hi :: k :: rest =>
    let a := (pair lo hi).toNat
    let n := fld k 0 13
    let used := if bit k 13 then 1 else n
    if n = 0 ∨ 8191 < n ∨ rest.length < used ∨ rangeOk a n = false then none
    else
      let d := rest.take used
      let ws := if bit k 13 then (span a n).map (fun x => (x, clean (nth 0 d 0))) else (span a n).zip (d.map clean)
      match records fuel (rest.drop used) with
      | some l => some (ws :: l)
      | none => none
  | _ + 1, _ => none

/-- The records of a whole image whose FORMAT and L hold (R466): none where the sum or a record is wrong. -/
def imageRecords (img : List (BitVec 14)) : Option (List (List (Nat × BCell))) :=
  let n := img.length - 2
  let sum := sumN ((img.take n).map (fun v => v.toNat)) % 2 ^ 28
  if sum = (pair (nth 0 img n) (nth 0 img (n + 1))).toNat then records img.length ((img.take n).drop 3) else none

/-- The image's FORMAT and length, where its first three cells are good (R465): L. -/
def imageLen (a : Nat) (l : List BCell) : Option Nat :=
  let n := (pair (nth absentCell l 1).v (nth absentCell l 2).v).toNat
  if (nth absentCell l 0).v = 1 ∧ 5 ≤ n ∧ n ≤ 1048576 ∧ rangeOk a n = true then some n else none

/-- The address ranges that a deferred FILL or RESTORE holds (R456), each a first address and a length: the cells of the fill, or of the
image; the cells that the image's records write are held as well once the image has been read (log entry 41). -/
def heldRanges (d : Deferred) : List (Nat × Nat) :=
  let a := argPair d.cmd 0
  if d.op = 0x05 then [(a, argPair d.cmd 2)]
  else if d.op = 0x10 then
    let l := d.cmd.got.map (fun x => x.1)
    let n := (imageLen a l).getD 5
    (a, n) :: (if l.length = n then
      ((imageRecords (l.map (fun x => x.v))).getD []).map (fun r => ((r.map (fun x => x.1)).headD 0, r.length)) else [])
  else []

/-- The range from a of n cells meets one that another command, deferred, holds (R456). -/
def rangeTaken (b : Blk) (c : Cmd) (a n : Nat) : Bool :=
  b.stw.defer.any (fun d => d.cmd.num != c.num && (heldRanges d).any (fun r => decide (r.1 < a + n) && decide (a < r.1 + r.2)))

/-- A deferred command of an opcode holds its resource. -/
def held (b : Blk) (op : Nat) : Bool := b.stw.defer.any (fun d => d.op == op)

/-- A swap of a kind is pending in field f; for kind 2, in the fabric (R456, R463). -/
def swapHeld (b : Blk) (kind f : Nat) : Bool :=
  if kind = 2 then b.fabSwap.isSome else (fieldOf b f).swaps.any (fun x => x.kind == kind)

/-! Taking a packet (R447 to R451). -/

/-- The packet at the head of CMDIN, when it is complete and INOVF is 0 (R449). -/
def cmdinPacket (b : Blk) : Option (List BCell) :=
  match b.stw.cmdin with
  | c0 :: _ =>
    let n := 2 + fld c0.v 0 7
    if bit (reg b (aB 0x012)) 13 = false ∧ n ≤ b.stw.cmdin.length then some (b.stw.cmdin.take n) else none
  | [] => none

def remote (b : Blk) : Bool := bit (reg b (aB 0x142)) 0

/-- The next packet to take and the block without it: alternately where both paths hold one (R451). -/
def nextPacket (b : Blk) : Option (Cmd × Blk) :=
  let a := if remote b then none else cmdinPacket b
  match a, b.stw.fq with
  | some p, [] => some ({ cells := p, link := none, src := 0 }, onStw (fun w => { w with cmdin := w.cmdin.drop p.length, fromFrame := true }) b)
  | some p, q :: qs =>
    if b.stw.fromFrame then some (q, onStw (fun w => { w with fq := qs, fromFrame := false }) b)
    else some ({ cells := p, link := none, src := 0 }, onStw (fun w => { w with cmdin := w.cmdin.drop p.length, fromFrame := true }) b)
  | none, q :: qs => some (q, onStw (fun w => { w with fq := qs, fromFrame := false }) b)
  | none, [] => none

/-- What is answered without effect before an opcode runs (R447, R448, R456, R458, R468, R469): the status. -/
def rejectPacket (c : Cmd) (b : Blk) : Option Nat :=
  let op := cmdOp c
  if anyP (c.cells.take 2) then some 8
  else if c.cells.length < 2 + cmdLen c then some 5
  else if op = 0 ∨ 0x12 < op then some 4
  else if 4 ≤ b.stw.defer.length ∧ quickOp op = false then some 3
  else if op = 0x0A ∨ op = 0x0C then
    if cmdLen c = 0 then some 5
    else if (arg c 0).p then some 8
    else if op = 0x0A ∧ 3 < fld (arg c 0).v 11 3 then some 5
    else if op = 0x0C ∧ (2 < argN c 0 ∨ 126 < cmdLen c) then some 5
    else none
  else none

/-- STEWARD_TAKE_PACKET (R451): no packet is taken in COLD (R459), in a warm reset, or while the steward is frozen (R548). -/
def takePacket (b : Blk) : Blk :=
  if b.stw.cur.isSome ∨ modeOf b = 1 ∨ b.md.warm = true ∨ frozen b 10 = true then b
  else
    match nextPacket b with
    | none => b
    | some (c, b) =>
      let b := count (aB 0x149) b
      match rejectPacket c b with
      | some st => reply c st [] b
      | none => onStw (fun w => { w with cur := some { c with num := w.cmdNum }, cmdNum := w.cmdNum + 1 }) b

/-- CMD_FORWARD (R454). -/
def forwardPacket (b : Blk) : Blk :=
  if remote b = false ∨ modeOf b = 1 ∨ b.md.warm = true ∨ frozen b 10 = true then b
  else
    match cmdinPacket b with
    | some p =>
      originate { typ := 7, dest := idAt b (aB 0x143), src := ownId b, tag := b.tb.slot, hop := 0,
                  bc := bit (reg b (aB 0x142)) 1, pay := packCells p }
        (onStw (fun w => { w with cmdin := w.cmdin.drop p.length }) b)
    | none => b

/-- The effect of a row: that of its opcode, where the command in hand has it and waits for no cell of the host window. Where it waited
for something else, it goes on from where it was. -/
def opRow (op : Nat) (eff : Cmd → Blk → Blk) (b : Blk) : Blk :=
  match b.stw.cur with
  | some c => if cmdOp c = op ∧ c.want = 0 then eff c b else b
  | none => b

/-! The opcodes (R459). -/

def pingEff (c : Cmd) (b : Blk) : Blk := finish2 c 0 (args c) b

/-- R459: the ten identification cells. -/
def identCells (b : Blk) : List BCell :=
  [0x002, 0x182, 0x183, 0x20B, 0x20A, 0x208, 0x209, 0x146, 0x12A, 0x000].map (fun o => blkValue b .steward o)

def identEff (c : Cmd) (b : Blk) : Blk := if cmdLen c ≠ 0 then finish2 c 5 [] b else finish2 c 0 (identCells b) b

/-- READ (R460 to R462): the host window answers through its port, and the command waits for it. -/
def readEff (c : Cmd) (b : Blk) : Blk :=
  let a := argPair c 0
  let n := argN c 2
  if cmdLen c ≠ 3 then finish2 c 5 [] b
  else if anyP (args c) then finish2 c 8 [] b
  else if n = 0 ∨ 127 < n ∨ rangeOk a n = false then finish2 c 5 [] b
  else if c.got.isEmpty ∧ rangeTaken b c a n = true then finish2 c 3 [] b
  else if isWindow a ∧ mayWindow c b = true then park { c with want := n } (askHost c (span a n) b)
  else
    let r := readOn c (span a n) b
    if r.1.got.length < n then park r.1 r.2 else finish2 c (readStatus r.1.got) (r.1.got.map (fun x => x.1)) r.2

def writeEff (c : Cmd) (b : Blk) : Blk :=
  let a := argPair c 0
  let d := (args c).drop 2
  if cmdLen c < 3 then finish2 c 5 [] b
  else if (arg c 0).p ∨ (arg c 1).p then finish2 c 8 [] b
  else if rangeOk a d.length = false then finish2 c 5 [] b
  else if c.made = 0 ∧ rangeTaken b c a d.length = true then finish2 c 3 [] b
  else doWrites c ((span a d.length).zip d) b

def fillEff (c : Cmd) (b : Blk) : Blk :=
  let a := argPair c 0
  let n := argPair c 2
  if cmdLen c ≠ 5 then finish2 c 5 [] b
  else if anyP ((args c).take 4) then finish2 c 8 [] b
  else if n = 0 ∨ 1048576 < n ∨ rangeOk a n = false then finish2 c 5 [] b
  else if c.made = 0 ∧ rangeTaken b c a n = true then finish2 c 3 [] b
  else doWrites c ((span a n).map (fun x => (x, arg c 4))) b

/-- BLK.MODE as a reply cell. -/
def modeCell (b : Blk) : BCell := clean (reg b (aB 0x000))

/-- MODE (R481): a request that is not complete at once is deferred. -/
def modeCmdEff (c : Cmd) (b : Blk) : Blk :=
  let t := fld (arg c 0).v 0 4
  if cmdLen c ≠ 1 then finish2 c 5 [] b
  else if (arg c 0).p then finish2 c 8 [] b
  else if held b 0x06 then finish2 c 3 [] b
  else
    let r := modeReq t b
    if r.1 = false then finish2 c 7 [] r.2
    else if modeOf r.2 = t then finish2 c 0 [modeCell r.2] r.2
    else deferCmd c 0x06 t [] r.2

def statusEff (c : Cmd) (b : Blk) : Blk := if cmdLen c ≠ 0 then finish2 c 5 [] b else finish2 c 0 (statusCells b) b

/-! Safe-load sets (R463, R464). -/

/-- Where cell q of the set that LOADSET writes stands, for a kind and a field (R142, R155, R163, R463). -/
def setAddr (b : Blk) (kind f q : Nat) : Nat :=
  let other (r : BitVec 14) (i : Nat) : Nat := 1 - b2n (bit r i)
  if kind = 0 then 0x100000 + f * 0x20000 + other (reg b (aF f 0x041)) 1 * 0x10000 + 3 * (q / 2) + q % 2
  else if kind = 1 then
    let x := other (reg b (aF f 0x081)) 0
    if q < 1024 then 0x200000 + f * 0x800 + x * 0x400 + q else aF f (0x0A0 + 16 * x + (q - 1024))
  else if kind = 2 then 0x210000 + other (reg b (aB 0x181)) 0 * 0x1000 + q
  else if kind = 3 then aF f (if bit (reg b (aF f 0x001)) 0 then 0x008 else 0x009)
  else 0x100000 + f * 0x20000 + other (reg b (aF f 0x041)) 2 * 0x10000 + 3 * q + 2

/-- The cells of a kind's set, and the cells that one unit of its offset counts (R463). -/
def setSize (kind : Nat) : Nat :=
  if kind = 0 then 2 * 12288 else if kind = 1 then 1040 else if kind = 2 then 4096 else if kind = 3 then 1 else 12288
def setUnit (kind : Nat) : Nat := if kind = 0 then 2 else 1

def loadsetEff (c : Cmd) (b : Blk) : Blk :=
  let kind := fld (arg c 0).v 11 3
  let f := fld (arg c 0).v 0 3
  let d := (args c).drop 2
  let q := argN c 1 * setUnit kind
  if cmdLen c < 3 then finish2 c 5 [] b
  else if (arg c 0).p ∨ (arg c 1).p then finish2 c 8 [] b
  else if 4 < kind ∨ (kind ≠ 2 ∧ nFields b ≤ f) ∨ setSize kind < q + d.length then finish2 c 5 [] b
  else if c.late = false ∧ c.made = 0 ∧ swapHeld b kind f = true then finish2 c 3 [] b
  else doWrites c (((List.range d.length).map (fun i => setAddr b kind f (q + i))).zip d) b

/-- The fields that a SWAPSET names (R464). -/
def swapFields (c : Cmd) : List Nat := (List.range 8).filter (fun f => bit (arg c 0).v (6 + f))
/-- The kinds that a SWAPSET names. -/
def swapKinds (c : Cmd) : List Nat := (List.range 5).filter (fun k => bit (arg c 0).v k)
/-- The field kinds among them. -/
def fieldKinds (c : Cmd) : List Nat := (swapKinds c).filter (fun k => k != 2)

/-- d of R464. -/
def swapAhead (c : Cmd) (b : Blk) : Nat := (argN c 2 + 16384 - (lo14 b.tb.sweep).toNat) % 16384

/-- The slots per sweep in the target's sweep (R464). -/
def swapLimit (c : Cmd) (b : Blk) : Nat := if swapAhead c b = 0 then b.tb.spsEff else (reg b (aB 0x042)).toNat

/-- The checks of R464: the status of a SWAPSET that is refused. -/
def swapRefused (c : Cmd) (b : Blk) : Option Nat :=
  let fs := if fieldKinds c = [] then [] else swapFields c
  if cmdLen c ≠ 3 then some 5
  else if anyP (args c) then some 8
  else if swapKinds c = [] ∨ (fieldKinds c ≠ [] ∧ fs = []) ∨ fs.any (fun f => decide (nFields b ≤ f)) = true ∨
      swapLimit c b ≤ argN c 1 then some 5
  else if counting b = false ∨ fs.any (fun f => !(clocked b f)) = true then some 7
  else if 8192 ≤ swapAhead c b ∨ (swapAhead c b = 0 ∧ argN c 1 < b.tb.slot.toNat + 2) then some 10
  else if (swapKinds c).any (fun k => if k = 2 then swapHeld b 2 0 else fs.any (swapHeld b k)) then some 3
  else none

/-- The tagged requests of a SWAPSET go out (R464). -/
def sendSwaps (c : Cmd) (id : Nat) (b : Blk) : Blk :=
  let req (k : Nat) : Swap := { kind := k, slot := (arg c 1).v, sweep := (arg c 2).v, id := id, reached := false }
  let b := if (swapKinds c).contains 2 then { b with fabSwap := some (req 2) } else b
  each (fun f b => if (fieldKinds c) = [] then b
    else onField f (fun g => { g with swaps := g.swaps ++ (fieldKinds c).map req }) b) (swapFields c) b

def swapsetEff (c : Cmd) (b : Blk) : Blk :=
  match swapRefused c b with
  | some st => finish2 c st [] b
  | none =>
    deferCmd c 0x09 c.num [clean (arg c 1).v, clean (arg c 2).v] (sendSwaps c c.num b)

/-- A request of SWAPSET `id` is still pending. -/
def swapOpen (b : Blk) (id : Nat) : Bool :=
  b.fields.1.any (fun g => g.swaps.any (fun x => x.id == id)) || (match b.fabSwap with
    | some x => x.id == id
    | none => false)

/-! ENGINE (R468). -/

/-- The engine that an ENGINE command names. -/
def engArg (c : Cmd) : Nat := fld (arg c 0).v 0 6

/-- A deferred ENGINE command holds engine e (R456). -/
def engineHeld (b : Blk) (e : Nat) : Bool := b.stw.defer.any (fun d => d.op == 0x0A && engArg d.cmd == e)

/-- The row of an ENGINE action with its parameter counts: BADARG, POISON and WRONGMODE come first. -/
def engineRow (action : Nat) (len : Cmd → Blk → Nat) (eff : Cmd → Nat → Blk → Blk) (c : Cmd) (b : Blk) : Blk :=
  let e := engArg c
  if fld (arg c 0).v 11 3 ≠ action then b
  else if nEngines b ≤ e ∨ isOdd b e = true ∨ cmdLen c ≠ len c b then finish2 c 5 [] b
  else if 2 ≤ action ∧ (arg c 1).p = true then finish2 c 8 [] b
  else if c.late = false ∧ engineHeld b e = true then finish2 c 3 [] b
  else if modeOf b = 9 ∨ stoppedField b (fldOf e) = true then finish2 c 7 [] b
  else eff c e b

def estatCell (b : Blk) (e : Nat) : BCell := regValue b .steward (aE e 0x01)

/-- The engine has stopped (R468): RUNCTX reads 7, or MCHK is set. -/
def engStopped (b : Blk) (e : Nat) : Bool :=
  decide (fld (estatCell b e).v 7 3 = 7) || (engOf b e).mchk

/-- STOP (R468): it writes RUN = 0 once, and is complete when the engine has stopped, at the end of what is under way (R213). -/
def stopEff (c : Cmd) (e : Nat) (b : Blk) : Blk :=
  let b := if c.made = 0 then regWrite (cmdMaster c) (aE e 0x00) none (clean (putb (ectl b e) 11 false)) b else b
  if engStopped b e then finish2 c 0 [estatCell b e] b else park { c with made := 1 } b

def startEff (c : Cmd) (e : Nat) (b : Blk) : Blk :=
  let b := regWrite (cmdMaster c) (aE e 0x00) none (clean (putb (ectl b e) 11 true)) b
  finish2 c 0 [estatCell b e] b

/-- Work through CTXWIN with a selector, and restore what it held (R468). -/
def throughWin (e : Nat) (sel : BitVec 14) (g : Blk → α × Blk) (b : Blk) : α × Blk :=
  let w := reg b (aE e 0x02)
  let h := (engOf b e).half
  let x := g (winWrite e (sel &&& 0x383F) b)
  (x.1, onEng e (fun y => { y with half := h }) (setReg (aE e 0x02) w x.2))

/-- CTXRD (R468): one cell, or low then high for a pair; data read with P = 1 makes the status POISON (R458). -/
def ctxrdCmdEff (c : Cmd) (e : Nat) (b : Blk) : Blk :=
  let x := throughWin e (arg c 1).v (fun b => (selected b e, settleFor e (winCtx b e) (winReg b e) b)) b
  let cells := if isTwin b e then [{ v := lo14 x.1.1, p := x.1.2 : BCell }, { v := hi14 x.1.1, p := x.1.2 }]
    else [{ v := lo14 x.1.1, p := x.1.2 }]
  finish2 c (if x.1.2 then 8 else 0) (estatCell x.2 e :: cells) x.2

/-- CTXWR (R212, R468): a write that the executing context refuses is WRONGMODE; a value with P = 1 is discarded, since a register holds no
P, and the write fails with POISON (R447). -/
def ctxwrCmdEff (c : Cmd) (e : Nat) (b : Blk) : Blk :=
  let cx := fld (arg c 1).v 11 3
  let i := fld (arg c 1).v 0 6
  let v := if isTwin b e then pair (arg c 2).v (arg c 3).v else (arg c 2).v.setWidth 28
  let p := (arg c 2).p || (isTwin b e && (arg c 3).p)
  let busy := executing b e cx && busyIdx i
  if p then finish2 c 8 [estatCell b e] b
  else
    let x := throughWin e (arg c 1).v (fun b => ((), ctxWrite e cx i v false b)) b
    finish2 c (if busy then 7 else 0) [estatCell x.2 e] x.2

/-! ROUTE, PATCH and CAL (R467, R469). -/

def portOk (x : BCell) : Bool := decide (x.v.toNat ≤ 95) || decide (x.v.toNat = 126) || decide (x.v.toNat = 127)

def routeEff (c : Cmd) (b : Blk) : Blk :=
  let sel := (arg c 0).v
  let ports := (args c).drop 1
  let i := fld sel 0 12
  let set := b2n (bit (reg b (aB 0x181)) 0 ^^ bit sel 13)
  let mem := bit sel 12
  if cmdLen c < 2 ∨ 126 < cmdLen c then finish2 c 5 [] b
  else if anyP (args c) then finish2 c 8 [] b
  else if ports.any (fun x => !(portOk x)) = true ∨ (if mem then 16 else 4096) < i + ports.length then finish2 c 5 [] b
  else doWrites c ((span (if mem then aB (0x1A0 + i) else 0x210000 + set * 0x1000 + i) ports.length).zip ports) b

/-- The row of a PATCH action; while an installation that a PATCH started is deferred the installer is held (R456). -/
def patchRow (action : Nat) (eff : Cmd → Blk → Blk) (c : Cmd) (b : Blk) : Blk :=
  if argN c 0 ≠ action then b
  else if held b 0x0C then finish2 c 3 [] b
  else eff c b

def patchLresetEff (c : Cmd) (b : Blk) : Blk := finish2 c 0 [] (pctlWrite 1 b)

def patchAppendEff (c : Cmd) (b : Blk) : Blk :=
  if anyP ((args c).drop 1) then finish2 c 8 [] b else finish2 c 0 [] (each ploadWrite ((args c).drop 1) b)

def patchInstallEff (c : Cmd) (b : Blk) : Blk :=
  if modeOf b ≠ 2 then finish2 c 7 [blkValue b .steward 0x205] b else deferCmd c 0x0C 0 [] (pctlWrite 2 b)

/-- The status that PSTAT.RESULT gives (R469). -/
def installStatus (result : Nat) : Nat := if result = 1 then 2 else if result = 6 then 7 else if result = 4 then 6 else 5

def calCells (b : Blk) (i n : Nat) : List BCell := (span i n).map (fun k => clean (reg b (aB (0x100 + k))))

def calrdEff (c : Cmd) (b : Blk) : Blk :=
  let i := argN c 0
  let n := argN c 1
  if cmdLen c ≠ 2 then finish2 c 5 [] b
  else if anyP (args c) then finish2 c 8 [] b
  else if n = 0 ∨ 42 < i + n then finish2 c 5 [] b
  else finish2 c 0 (clean (reg b (aB 0x12A)) :: calCells b i n) b

def calwrEff (c : Cmd) (b : Blk) : Blk :=
  let i := argN c 0
  let d := (args c).drop 1
  if cmdLen c < 2 ∨ 43 < cmdLen c then finish2 c 5 [] b
  else if (arg c 0).p then finish2 c 8 [] b
  else if 42 < i + d.length then finish2 c 5 [] b
  else if anyP d then finish2 c 8 [] b
  else
    finish2 c 0 (calCells b i d.length)
      (each (fun k b => regWrite (cmdMaster c) (aB (0x100 + i + k)) none (nth absentCell d k) b) (List.range d.length) b)

/-! CLEAR, EVENT and COUNTERS (R470 to R472). -/

/-- None of the requests of a deferred SWAPSET has reached its unit. -/
def swapUnreached (b : Blk) (id : Nat) : Bool :=
  b.fields.1.all (fun g => g.swaps.all (fun x => x.id != id || !x.reached)) && (match b.fabSwap with
    | some x => x.id != id || !x.reached
    | none => true)

/-- The requests of SWAPSET `id` are withdrawn. -/
def dropSwap (id : Nat) (b : Blk) : Blk :=
  { b with
    fields := mapAll (fun g => { g with swaps := g.swaps.filter (fun x => x.id != id) }) b.fields,
    fabSwap := match b.fabSwap with
      | some x => if x.id = id then none else some x
      | none => none }

/-- Cancel one deferred SWAPSET where it can be (R470). -/
def cancelSwap (d : Deferred) (b : Blk) : Blk :=
  if d.op = 0x09 ∧ swapOpen b d.goal = true ∧ swapUnreached b d.goal = true then
    reply d.cmd 10 [] (onStw (fun w => { w with defer := w.defer.filter (fun x => x != d) }) (dropSwap d.goal b))
  else b

/-- Write 1 to every W1C bit of the register at a; while NOBCLK is 1 a TB register takes no write (R56). -/
def clearW1c (a : Nat) (b : Blk) : Blk :=
  if isTbReg a && nobclk b then b
  else
    match regRow a with
    | some d => clrReg a d.w1c b
    | none => b

/-- R470, bit 1: BLK, TB, GOV, STW, FAB and MC; the status registers of each present field whose clock runs; each link's STAT. -/
def clearStatus (b : Blk) : Blk :=
  let b := each (fun o b => clearW1c (aB o) b)
    (List.range 0x100 ++ span 0x140 0x80 ++ span 0x200 0x100) b
  let b := each (fun f b => if clocked b f then
      each (fun o b => clearW1c (aF f o) b) [0x001, 0x041, 0x081, 0x102, 0x18F, 0x1C1] b else b) (List.range (nFields b)) b
  each (fun l b => clearW1c (aL l 1) b) (List.range (nLinks b)) b

def clearEff (c : Cmd) (b : Blk) : Blk :=
  let m := (arg c 0).v
  if cmdLen c ≠ 1 then finish2 c 5 [] b
  else if (arg c 0).p then finish2 c 8 [] b
  else
    let before := b.stw.defer.length
    let b := if bit m 0 then each cancelSwap b.stw.defer b else b
    let n := before - b.stw.defer.length
    let b := if bit m 1 then clearStatus b else b
    let b := if bit m 2 then each (fun o b => setReg (aB o) 0 b) [0x149, 0x14A, 0x14B, 0x14C] b else b
    finish2 c 0 [cleanN n] b

/-- Groups of four, the last one shorter. -/
def fours : List BCell → List (List BCell)
  | [] => []
  | [a] => [[a]]
  | [a, b] => [[a, b]]
  | [a, b, c] => [[a, b, c]]
  | a :: b :: c :: d :: r => [a, b, c, d] :: fours r

/-- A doorbell cell raises its source here (R102, R471). -/
def localBell (x : BCell) (b : Blk) : Blk :=
  let f := fld x.v 11 3
  if fld x.v 0 9 = 0 ∨ nFields b ≤ f then b else doorbell f (cleanN (fld x.v 0 9)) b

def eventCmdEff (c : Cmd) (b : Blk) : Blk :=
  let far := bit (arg c 0).v 13
  let bells := (args c).drop (if far then 3 else 1)
  if cmdLen c < 2 ∨ bells = [] ∨ 124 < bells.length then finish2 c 5 [] b
  else if anyP (args c) then finish2 c 8 [] b
  else if far then
    let dest : BitVec 16 := (arg c 2).v.extractLsb' 0 2 ++ (arg c 1).v
    finish2 c 0 [] (each (fun l b => originate
      { typ := 6, dest := dest, src := ownId b, tag := b.tb.slot, hop := 0, bc := bit (arg c 0).v 12, pay := packCells l } b)
      (fours bells) b)
  else finish2 c 0 [] (each localBell bells b)

/-- The RC registers of a group of COUNTERS in ascending order, for its index (R472); none where the index is absent. -/
def counterRegs (b : Blk) (g i : Nat) : Option (List Nat) :=
  let inField (lo n : Nat) := if i < nFields b then some ((span (aF i lo) n).filter isRc) else none
  if g = 0 then inField 0x000 0x10
  else if g = 1 then inField 0x040 0x40
  else if g = 2 then inField 0x080 0x80
  else if g = 3 then inField 0x100 0x10
  else if g = 4 then inField 0x180 0x40
  else if g = 5 then inField 0x1C0 0x40
  else if g = 6 then (if i < nLinks b then some ((span (aL i 0) 16).filter isRc) else none)
  else if g = 7 then some ((span (aB 0x180) 0x20).filter isRc)
  else if g = 8 then some ((span (aB 0x040) 0x20).filter isRc)
  else if g = 9 then some ((span (aB 0x140) 0x20).filter isRc)
  else if g = 10 then some ((span (aB 0x1C0) 0x10).filter isRc)
  else if g = 11 then (if i < nEngines b then some ((span (aE i 0x10) 0x10).filter isRc) else none)
  else none

/-- Read a list of counters, clearing them unless PEEK is 1 (R472). -/
def readCounters (m : Master) (peek : Bool) : List Nat → Blk → List BCell × Blk
  | [], b => ([], b)
  | a :: as, b =>
    let x := if peek then (regValue b m a, b) else regRead m a b
    let y := readCounters m peek as x.2
    (x.1 :: y.1, y.2)

def countersEff (c : Cmd) (b : Blk) : Blk :=
  let v := (arg c 0).v
  if cmdLen c ≠ 1 then finish2 c 5 [] b
  else if (arg c 0).p then finish2 c 8 [] b
  else
    match counterRegs b (fld v 10 4) (fld v 0 7) with
    | none => finish2 c 5 [] b
    | some l =>
      if l.any (fun a => match islandField a with
        | some f => stoppedField b f
        | none => false) then finish2 c 7 [] b
      else
        let x := readCounters (cmdMaster c) (bit v 9) l b
        finish2 c 0 x.1 x.2

/-! RESTORE (R465, R466). -/

/-- Apply records in order (R462, R466): the records applied, whether any write was made, and the failure. -/
def applyRecords (c : Cmd) : List (List (Nat × BCell)) → Nat → Bool → Blk → Nat × Bool × Option (Nat × Nat) × Blk
  | [], n, made, b => (n, made, none, b)
  | r :: rs, n, made, b =>
    let x := stwWrites c r 0 b
    match x.2.1 with
    | some f => (n, made || decide (0 < x.1), some f, x.2.2)
    | none => if dropped c x.2.2 then (n, true, none, x.2.2) else applyRecords c rs (n + 1) true x.2.2

/-- Records not yet applied, with those of which a part was written cut to the rest: `made` cells are written already, `n` records whole. -/
def recordsLeft : List (List (Nat × BCell)) → Nat → Nat → Nat × List (List (Nat × BCell))
  | [], _, n => (n, [])
  | r :: rs, made, n => if r.length ≤ made then recordsLeft rs (made - r.length) (n + 1) else (n, r.drop made :: rs)

/-- The records up to the first cell that a locked sequence holds: those that can be applied whole, and what comes before that cell of
the next. -/
def recordsFree (c : Cmd) (b : Blk) : List (List (Nat × BCell)) → List (List (Nat × BCell)) × List (Nat × BCell)
  | [] => ([], [])
  | r :: rs =>
    let now := r.take (freeSpan c (r.map (fun x => x.1)) b).length
    if now.length < r.length then ([], now)
    else
      let y := recordsFree c b rs
      (r :: y.1, y.2)

/-- The whole image has been read (R466): its checks, and its records in order from where the command is. -/
def applyImage (c : Cmd) (b : Blk) : Blk :=
  let l := c.got.map (fun x => x.1)
  if anyP l then finish2 c 8 [] b
  else
    match imageRecords (l.map (fun x => x.v)) with
    | none => finish2 c 5 [] b
    | some rs =>
      let todo := recordsLeft rs c.made 0
      let free := recordsFree c b todo.2
      let r := applyRecords c free.1 todo.1 (decide (0 < c.made)) b
      if r.2.2.1.isSome ∨ free.1.length = todo.2.length ∨ dropped c r.2.2.2 = true then
        writeReply c r.1 r.2.1 r.2.2.1 (pairCells r.1) r.2.2.2
      else
        let p := stwWrites c free.2 0 r.2.2.2
        if p.2.1.isSome ∨ dropped c p.2.2 = true then writeReply c r.1 (r.2.1 || decide (0 < p.1)) p.2.1 [] p.2.2
        else park { c with made := c.made + free.1.flatten.length + p.1 } p.2.2

/-- RESTORE from its image's cells on (R465, R466): the first three give its length; a cell that cannot be read fails as in READ. -/
def restoreGo (c : Cmd) (b : Blk) : Blk :=
  let a := argPair c 0
  let l := c.got.map (fun x => x.1)
  if c.got.length < 3 then park c b
  else if readStatus (c.got.take 3) ≠ 0 then finish2 c (readStatus (c.got.take 3)) [] b
  else
    match imageLen a l with
    | none => finish2 c 5 [] b
    | some n =>
      if n ≤ l.length then applyImage c b
      else if isWindow a then park { c with want := n } (askHost c (span (a + 3) (n - 3)) b)
      else
        let r := readOn c (span a n) b
        let status := readStatus r.1.got
        if status = 6 ∨ status = 7 then finish2 c status [] r.2
        else if r.1.got.length < n then park r.1 r.2
        else applyImage r.1 r.2

/-- RESTORE (R466): CONFIG only. -/
def restoreEff (c : Cmd) (b : Blk) : Blk :=
  let a := argPair c 0
  if cmdLen c ≠ 2 then finish2 c 5 [] b
  else if anyP (args c) then finish2 c 8 [] b
  else if c.late = false ∧ c.got.isEmpty ∧ modeOf b ≠ 2 then finish2 c 7 [] b
  else if rangeOk a 5 = false then finish2 c 5 [] b
  else if c.got.isEmpty ∧ rangeTaken b c a 5 = true then finish2 c 3 [] b
  else if isWindow a ∧ mayWindow c b = true then
    if c.got.isEmpty then park { c with want := 3 } (askHost c (span a 3) b) else restoreGo c b
  else
    let h := if c.got.length < 3 then readOn c (span a 3) b else (c, b)
    restoreGo h.1 h.2

/-! Cells of the host window that come for a command in hand (R460, R513). -/

/-- All the cells have come that a command asked of the host window. -/
def windowCame (c : Cmd) : Bool := decide (c.want ≤ c.got.length)

/-- The command goes on with them. -/
def windowGo (c : Cmd) (b : Blk) : Blk :=
  if windowCame c = false then b
  else if cmdOp c = 0x03 then finish2 c (readStatus c.got) (c.got.map (fun x => x.1)) b
  else restoreGo { c with want := 0 } b

/-- A cell comes for the command of a number (R513): the command in hand goes on at once when it was the last; a command that is gone
takes none. -/
def windowCell (num : Nat) (x : BCell) (b : Blk) : Blk :=
  let more (c : Cmd) : Cmd := { c with got := c.got ++ [(x, 0)] }
  match b.stw.cur with
  | some c =>
    if c.num = num ∧ 0 < c.want then windowGo (more c) (onStw (fun w => { w with cur := some (more c) }) b)
    else onStw (fun w => { w with defer := w.defer.map (fun d => if d.cmd.num = num then { d with cmd := more d.cmd } else d) }) b
  | none => onStw (fun w => { w with defer := w.defer.map (fun d => if d.cmd.num = num then { d with cmd := more d.cmd } else d) }) b

/-! Deferred commands (R455, R457). -/

/-- The final reply of a deferred command. -/
def deferEnd (d : Deferred) (status : Nat) (data : List BCell) (b : Blk) : Blk :=
  reply d.cmd status data (onStw (fun w => { w with defer := w.defer.filter (fun x => x != d) }) b)

/-- The transition that a deferred MODE waits for is still under way. -/
def modeUnderWay (b : Blk) (t : Nat) : Bool :=
  b.md.drainTo == some t || (b.md.watchEntry && decide (t = 9)) || (decide (modeOf b = 9) && b.md.wakeReq)

/-- A deferred command that waited for a locked sequence, for its engine or for the host window goes on, and ends where it can. -/
def resume (c : Cmd) (b : Blk) : Blk :=
  if 0 < c.want then windowGo c b
  else if cmdOp c = 0x03 then readEff c b
  else if cmdOp c = 0x04 then writeEff c b
  else if cmdOp c = 0x05 then fillEff c b
  else if cmdOp c = 0x08 then loadsetEff c b
  else if cmdOp c = 0x0A then stopEff c (engArg c) b
  else if cmdOp c = 0x10 then restoreEff c b
  else b

/-- DEFERRED_DONE (R455): a MODE whose transition ended elsewhere is WRONGMODE. -/
def deferDone (i : Nat) (b : Blk) : Blk :=
  match b.stw.defer[i]? with
  | none => b
  | some d =>
    if d.op = 0x06 then
      if modeOf b = d.goal then deferEnd d 2 [modeCell b] b
      else if modeUnderWay b d.goal then b
      else deferEnd d 7 [] b
    else if d.op = 0x09 then
      if swapOpen b d.goal then b else deferEnd d 2 d.data b
    else if d.op ≠ 0x0C then resume d.cmd b
    else if b.mc.busy then b
    else deferEnd d (installStatus (fld (reg b (aB 0x205)) 0 4)) [blkValue b .steward 0x205] b

/-- DEFERRED_TIMEOUT (R457): every deferred command but a SWAPSET. -/
def deferTimeout (i : Nat) (b : Blk) : Blk :=
  match b.stw.defer[i]? with
  | none => b
  | some d => if d.op = 0x09 then b else deferEnd d 10 [] b

/-! The commands. -/

def execStewardTakePacket (s : State) := run takePacket s
def execCmdForward (s : State) := run forwardPacket s
def execPing (s : State) := run (opRow 0x01 pingEff) s
def execIdent (s : State) := run (opRow 0x02 identEff) s
def execRead (s : State) := run (opRow 0x03 readEff) s
def execWrite (s : State) := run (opRow 0x04 writeEff) s
def execFill (s : State) := run (opRow 0x05 fillEff) s
def execMode (s : State) := run (opRow 0x06 modeCmdEff) s
def execStatus (s : State) := run (opRow 0x07 statusEff) s
def execLoadset (s : State) := run (opRow 0x08 loadsetEff) s
def execSwapset (s : State) := run (opRow 0x09 swapsetEff) s
def execEngineStop (s : State) := run (opRow 0x0A (engineRow 0 (fun _ _ => 1) stopEff)) s
def execEngineStart (s : State) := run (opRow 0x0A (engineRow 1 (fun _ _ => 1) startEff)) s
def execEngineCtxrd (s : State) := run (opRow 0x0A (engineRow 2 (fun _ _ => 2) ctxrdCmdEff)) s
def execEngineCtxwr (s : State) :=
  run (opRow 0x0A (engineRow 3 (fun c b => if isTwin b (engArg c) then 4 else 3) ctxwrCmdEff)) s
def execRoute (s : State) := run (opRow 0x0B routeEff) s
def execPatchLreset (s : State) := run (opRow 0x0C (patchRow 0 patchLresetEff)) s
def execPatchAppend (s : State) := run (opRow 0x0C (patchRow 1 patchAppendEff)) s
def execPatchInstall (s : State) := run (opRow 0x0C (patchRow 2 patchInstallEff)) s
def execCalrd (s : State) := run (opRow 0x0D calrdEff) s
def execCalwr (s : State) := run (opRow 0x0E calwrEff) s
def execClear (s : State) := run (opRow 0x0F clearEff) s
def execRestore (s : State) := run (opRow 0x10 restoreEff) s
def execEvent (s : State) := run (opRow 0x11 eventCmdEff) s
def execCounters (s : State) := run (opRow 0x12 countersEff) s
def execDeferredDone (i : Nat) (s : State) := run (deferDone i) s
def execDeferredTimeout (i : Nat) (s : State) := run (deferTimeout i) s

end Sys2Proof.Machine
end

