-- ==== Sys2Proof/Machine/Crypto.lean ====
section
/-! DEFINITION. The algorithms that the manual names by their standards: SHA-256 and HMAC-SHA-256 for the debug challenge (R529,
FIPS 198-1), and pure Ed25519, with SHA-512, for the signature of a patch record (R440, RFC 8032). Bytes are BitVec 8, in order;
nothing here is recursive but on lists and counts. -/

namespace Sys2Proof.Machine

/-! SHA-256 and SHA-512. -/

/-- The round constants of SHA-256 (FIPS 180-4). -/
def k256 : List (BitVec 32) :=
  [0x428A2F98, 0x71374491, 0xB5C0FBCF, 0xE9B5DBA5, 0x3956C25B, 0x59F111F1, 0x923F82A4, 0xAB1C5ED5,
   0xD807AA98, 0x12835B01, 0x243185BE, 0x550C7DC3, 0x72BE5D74, 0x80DEB1FE, 0x9BDC06A7, 0xC19BF174] ++
  [0xE49B69C1, 0xEFBE4786, 0x0FC19DC6, 0x240CA1CC, 0x2DE92C6F, 0x4A7484AA, 0x5CB0A9DC, 0x76F988DA,
   0x983E5152, 0xA831C66D, 0xB00327C8, 0xBF597FC7, 0xC6E00BF3, 0xD5A79147, 0x06CA6351, 0x14292967] ++
  [0x27B70A85, 0x2E1B2138, 0x4D2C6DFC, 0x53380D13, 0x650A7354, 0x766A0ABB, 0x81C2C92E, 0x92722C85,
   0xA2BFE8A1, 0xA81A664B, 0xC24B8B70, 0xC76C51A3, 0xD192E819, 0xD6990624, 0xF40E3585, 0x106AA070] ++
  [0x19A4C116, 0x1E376C08, 0x2748774C, 0x34B0BCB5, 0x391C0CB3, 0x4ED8AA4A, 0x5B9CCA4F, 0x682E6FF3,
   0x748F82EE, 0x78A5636F, 0x84C87814, 0x8CC70208, 0x90BEFFFA, 0xA4506CEB, 0xBEF9A3F7, 0xC67178F2]

/-- The initial hash value of SHA-256. -/
def h256 : List (BitVec 32) :=
  [0x6A09E667, 0xBB67AE85, 0x3C6EF372, 0xA54FF53A, 0x510E527F, 0x9B05688C, 0x1F83D9AB, 0x5BE0CD19]

/-- The round constants of SHA-512 (FIPS 180-4). -/
def k512 : List (BitVec 64) :=
  [0x428A2F98D728AE22, 0x7137449123EF65CD, 0xB5C0FBCFEC4D3B2F, 0xE9B5DBA58189DBBC,
   0x3956C25BF348B538, 0x59F111F1B605D019, 0x923F82A4AF194F9B, 0xAB1C5ED5DA6D8118,
   0xD807AA98A3030242, 0x12835B0145706FBE, 0x243185BE4EE4B28C, 0x550C7DC3D5FFB4E2,
   0x72BE5D74F27B896F, 0x80DEB1FE3B1696B1, 0x9BDC06A725C71235, 0xC19BF174CF692694] ++
  [0xE49B69C19EF14AD2, 0xEFBE4786384F25E3, 0x0FC19DC68B8CD5B5, 0x240CA1CC77AC9C65,
   0x2DE92C6F592B0275, 0x4A7484AA6EA6E483, 0x5CB0A9DCBD41FBD4, 0x76F988DA831153B5,
   0x983E5152EE66DFAB, 0xA831C66D2DB43210, 0xB00327C898FB213F, 0xBF597FC7BEEF0EE4,
   0xC6E00BF33DA88FC2, 0xD5A79147930AA725, 0x06CA6351E003826F, 0x142929670A0E6E70] ++
  [0x27B70A8546D22FFC, 0x2E1B21385C26C926, 0x4D2C6DFC5AC42AED, 0x53380D139D95B3DF,
   0x650A73548BAF63DE, 0x766A0ABB3C77B2A8, 0x81C2C92E47EDAEE6, 0x92722C851482353B,
   0xA2BFE8A14CF10364, 0xA81A664BBC423001, 0xC24B8B70D0F89791, 0xC76C51A30654BE30,
   0xD192E819D6EF5218, 0xD69906245565A910, 0xF40E35855771202A, 0x106AA07032BBD1B8] ++
  [0x19A4C116B8D2D0C8, 0x1E376C085141AB53, 0x2748774CDF8EEB99, 0x34B0BCB5E19B48A8,
   0x391C0CB3C5C95A63, 0x4ED8AA4AE3418ACB, 0x5B9CCA4F7763E373, 0x682E6FF3D6B2B8A3,
   0x748F82EE5DEFB2FC, 0x78A5636F43172F60, 0x84C87814A1F0AB72, 0x8CC702081A6439EC,
   0x90BEFFFA23631E28, 0xA4506CEBDE82BDE9, 0xBEF9A3F7B2C67915, 0xC67178F2E372532B] ++
  [0xCA273ECEEA26619C, 0xD186B8C721C0C207, 0xEADA7DD6CDE0EB1E, 0xF57D4F7FEE6ED178,
   0x06F067AA72176FBA, 0x0A637DC5A2C898A6, 0x113F9804BEF90DAE, 0x1B710B35131C471B,
   0x28DB77F523047D84, 0x32CAAB7B40C72493, 0x3C9EBE0A15C9BEBC, 0x431D67C49C100D4C,
   0x4CC5D4BECB3E42B6, 0x597F299CFC657E2A, 0x5FCB6FAB3AD6FAEC, 0x6C44198C4A475817]

/-- The initial hash value of SHA-512. -/
def h512 : List (BitVec 64) :=
  [0x6A09E667F3BCC908, 0xBB67AE8584CAA73B, 0x3C6EF372FE94F82B, 0xA54FF53A5F1D36F1,
   0x510E527FADE682D1, 0x9B05688C2B3E6C1F, 0x1F83D9ABFB41BD6B, 0x5BE0CD19137E2179]

/-- Bytes of a number, most significant first. -/
def beBytes : Nat → Nat → List (BitVec 8)
  | 0, _ => []
  | n + 1, x => BitVec.ofNat 8 (x >>> (8 * n)) :: beBytes n x

/-- The number that bytes spell, most significant first. -/
def beNat (l : List (BitVec 8)) : Nat := l.foldl (fun n x => 256 * n + x.toNat) 0
/-- The number that bytes spell, least significant first (RFC 8032). -/
def leNat (l : List (BitVec 8)) : Nat := beNat l.reverse

/-- The first n groups of k elements. -/
def groups {α : Type} (k : Nat) : Nat → List α → List (List α)
  | 0, _ => []
  | n + 1, l => l.take k :: groups k n (l.drop k)

/-- A message padded to a whole number of blocks of `blk` bytes, with its bit length in `lb` bytes. -/
def padded (blk lb : Nat) (m : List (BitVec 8)) : List (BitVec 8) :=
  let z := (blk - (m.length + 1 + lb) % blk) % blk
  m ++ [0x80] ++ List.replicate z 0 ++ beBytes lb (8 * m.length)

/-- The eight working variables. -/
structure Sha (w : Nat) where
  a : BitVec w
  b : BitVec w
  c : BitVec w
  d : BitVec w
  e : BitVec w
  f : BitVec w
  g : BitVec w
  h : BitVec w

/-- The rotations that tell the two functions apart: of the upper sums, and of the message sums with their shifts. -/
structure ShaRot where
  s0 : Nat × Nat × Nat
  s1 : Nat × Nat × Nat
  m0 : Nat × Nat × Nat
  m1 : Nat × Nat × Nat

def rot256 : ShaRot := { s0 := (2, 13, 22), s1 := (6, 11, 25), m0 := (7, 18, 3), m1 := (17, 19, 10) }
def rot512 : ShaRot := { s0 := (28, 34, 39), s1 := (14, 18, 41), m0 := (1, 8, 7), m1 := (19, 61, 6) }

def sumRot {w : Nat} (r : Nat × Nat × Nat) (x : BitVec w) : BitVec w :=
  x.rotateRight r.1 ^^^ x.rotateRight r.2.1 ^^^ x.rotateRight r.2.2
def sumShift {w : Nat} (r : Nat × Nat × Nat) (x : BitVec w) : BitVec w :=
  x.rotateRight r.1 ^^^ x.rotateRight r.2.1 ^^^ (x >>> r.2.2)

/-- One round with its constant and its message word. -/
def shaRound {w : Nat} (r : ShaRot) (s : Sha w) (k m : BitVec w) : Sha w :=
  let t1 := s.h + sumRot r.s1 s.e + ((s.e &&& s.f) ^^^ (~~~s.e &&& s.g)) + k + m
  let t2 := sumRot r.s0 s.a + ((s.a &&& s.b) ^^^ (s.a &&& s.c) ^^^ (s.b &&& s.c))
  { a := t1 + t2, b := s.a, c := s.b, d := s.c, e := s.d + t1, f := s.e, g := s.f, h := s.g }

/-- The rounds, with the last 16 words of the message schedule carried along, oldest first. -/
def shaRounds {w : Nat} (r : ShaRot) : List (BitVec w) → List (BitVec w) → Sha w → Sha w
  | [], _, s => s
  | k :: ks, ws, s =>
    let next := sumShift r.m1 (nth 0 ws 14) + nth 0 ws 9 + sumShift r.m0 (nth 0 ws 1) + nth 0 ws 0
    shaRounds r ks (ws.drop 1 ++ [next]) (shaRound r s k (nth 0 ws 0))

/-- One block. -/
def shaBlock {w : Nat} (r : ShaRot) (ks : List (BitVec w)) (s : Sha w) (ws : List (BitVec w)) : Sha w :=
  let t := shaRounds r ks ws s
  { a := s.a + t.a, b := s.b + t.b, c := s.c + t.c, d := s.d + t.d,
    e := s.e + t.e, f := s.f + t.f, g := s.g + t.g, h := s.h + t.h }

/-- The hash of a message, with words of `wb` bytes. -/
def shaHash {w : Nat} (wb : Nat) (r : ShaRot) (ks hs : List (BitVec w)) (m : List (BitVec 8)) : List (BitVec 8) :=
  let p := padded (16 * wb) (2 * wb) m
  let blocks := groups (16 * wb) (p.length / (16 * wb)) p
  let s0 : Sha w := { a := nth 0 hs 0, b := nth 0 hs 1, c := nth 0 hs 2, d := nth 0 hs 3,
                      e := nth 0 hs 4, f := nth 0 hs 5, g := nth 0 hs 6, h := nth 0 hs 7 }
  let s := blocks.foldl (fun s x => shaBlock r ks s ((groups wb 16 x).map (fun y => BitVec.ofNat w (beNat y)))) s0
  [s.a, s.b, s.c, s.d, s.e, s.f, s.g, s.h].flatMap (fun x => beBytes wb x.toNat)

def sha256 (m : List (BitVec 8)) : List (BitVec 8) := shaHash 4 rot256 k256 h256 m
def sha512 (m : List (BitVec 8)) : List (BitVec 8) := shaHash 8 rot512 k512 h512 m

/-- HMAC-SHA-256 under a key of at most 64 bytes (FIPS 198-1). -/
def hmac256 (key m : List (BitVec 8)) : List (BitVec 8) :=
  let k := key ++ List.replicate (64 - key.length) 0
  sha256 (k.map (fun x => x ^^^ 0x5C) ++ sha256 (k.map (fun x => x ^^^ 0x36) ++ m))

/-! Ed25519 (RFC 8032). -/

def edP : Nat := 2 ^ 255 - 19
def edL : Nat := 2 ^ 252 + 27742317777372353535851937790883648493

/-- x to the power e modulo p, with the bits of e least significant first, `n` of them. -/
def edPow (x : Nat) : Nat → Nat → Nat
  | 0, _ => 1
  | n + 1, e => (if e % 2 = 1 then x else 1) * edPow (x * x % edP) n (e / 2) % edP

def edInv (x : Nat) : Nat := edPow x 256 (edP - 2)
def edD : Nat := (edP - 121665) * edInv 121666 % edP

/-- A point in extended coordinates X, Y, Z, T. -/
structure EdPoint where
  x : Nat
  y : Nat
  z : Nat
  t : Nat

def edZero : EdPoint := { x := 0, y := 1, z := 1, t := 0 }

def edAdd (p q : EdPoint) : EdPoint :=
  let a := (p.y + edP - p.x) * (q.y + edP - q.x) % edP
  let b := (p.y + p.x) * (q.y + q.x) % edP
  let c := 2 * p.t * q.t * edD % edP
  let d := 2 * p.z * q.z % edP
  let e := b + edP - a
  let f := d + edP - c
  let g := d + c
  let h := b + a
  { x := e * f % edP, y := g * h % edP, z := f * g % edP, t := e * h % edP }

/-- The multiple of a point by a number of at most n bits. -/
def edMul : Nat → Nat → EdPoint → EdPoint
  | 0, _, _ => edZero
  | n + 1, k, p =>
    let r := edMul n (k / 2) (edAdd p p)
    if k % 2 = 1 then edAdd r p else r

/-- Two points are one. -/
def edSame (p q : EdPoint) : Bool :=
  decide (p.x * q.z % edP = q.x * p.z % edP) && decide (p.y * q.z % edP = q.y * p.z % edP)

/-- The x of a point with the given y and sign, if there is one. -/
def edX (y sign : Nat) : Option Nat :=
  if edP ≤ y then none
  else
    let x2 := (y * y + edP - 1) * edInv (edD * y % edP * y + 1) % edP
    let r := edPow x2 256 ((edP + 3) / 8)
    let x := if r * r % edP = x2 then some r
      else
        let s := r * edPow 2 256 ((edP - 1) / 4) % edP
        if s * s % edP = x2 then some s else none
    match x with
    | none => none
    | some x => if x = 0 ∧ sign = 1 then none else if x % 2 = sign then some x else some ((edP - x) % edP)

/-- The point that 32 bytes encode. -/
def edDecode (l : List (BitVec 8)) : Option EdPoint :=
  let n := leNat l
  let y := n % 2 ^ 255
  match edX y (n / 2 ^ 255) with
  | some x => some { x := x, y := y, z := 1, t := x * y % edP }
  | none => none

/-- The base point: y is 4/5, and x is even. -/
def edBase : EdPoint :=
  let y := 4 * edInv 5 % edP
  let x := (edX y 0).getD 0
  { x := x, y := y, z := 1, t := x * y % edP }

/-- The signature of 64 bytes verifies for a message under a public key (RFC 8032, 5.1.7, with the cofactor; log entry 42). -/
def edVerify (key msg sig : List (BitVec 8)) : Bool :=
  let rb := sig.take 32
  let s := leNat (sig.drop 32)
  let h := leNat (sha512 (rb ++ key ++ msg)) % edL
  if edL ≤ s then false
  else
    match edDecode key, edDecode rb with
    | some a, some r => edSame (edMul 4 8 (edMul 256 s edBase)) (edMul 4 8 (edAdd r (edMul 256 h a)))
    | _, _ => false

end Sys2Proof.Machine
end

