-- ==== Sys2Proof/Machine/Tap.lean ====
section
/-! DEFINITION. The debug island (chapter 18): the TAP and its data registers, authentication, and the debug access register.
The island acts while PORESET_N is asserted too (R523). -/

namespace Sys2Proof.Machine

def onTap (g : Tap → Tap) (b : Blk) : Blk := { b with tap := g b.tap }
def onAcc (g : Acc → Acc) (b : Blk) : Blk := onTap (fun t => { t with acc := g t.acc }) b

/-- The TAP's instruction is `ir` (R524). -/
def irIs (ir : Nat) (b : Blk) : Bool := decide (b.tap.ir.toNat = ir)

/-- A capture loads a number into the data register. -/
def capture (n : Nat) (b : Blk) : Blk := onTap (fun t => { t with dr := BitVec.ofNat 120 n }) b

/-- UPDATE_IR (R524): an unlisted value selects BYPASS. -/
def updateIrEff (ir : BitVec 5) (b : Blk) : Blk :=
  onTap (fun t => { t with ir := if [0x01, 0x02, 0x08, 0x09, 0x0A].contains ir.toNat then ir else 0x1F }) b

/-- IDCODE (R525). -/
def idcode (b : Blk) : Nat :=
  if b.md.dark then 0x5A43 * 2 ^ 12 + Config.manufacturer.toNat * 2 + 1
  else Config.step.toNat % 16 * 2 ^ 28 + (0x5A40 + b.cfg.size) * 2 ^ 12 + Config.manufacturer.toNat * 2 + 1

/-- DSTAT (R526). -/
def dstat (b : Blk) : Nat :=
  b.auth.level * 2 ^ 14 + b2n b.auth.nokey * 2 ^ 13 + b2n b.auth.lockout * 2 ^ 12 + b2n b.auth.barred * 2 ^ 11
    + b2n (!b.md.off && !b.md.dark) * 2 ^ 10 + b.tap.acc.result * 2 ^ 7 + b.auth.fails

/-! Authentication (R527 to R530). -/

/-- The key that 19 fuse words hold (R519, R527): none where a word carries P = 1. Bit 14 of a word is its P. -/
def keyOf (words : List (BitVec 15)) : Option (BitVec 256) :=
  if (List.range 19).any (fun i => bit (nth 0x4000 words i) 14) then none
  else some (BitVec.ofNat 256 (sumN ((List.range 19).map (fun i => fld (nth 0 words i) 0 14 * 2 ^ (14 * i)))))

/-- The key is read where it has not been (R527). -/
def readKey (fusePresent : Bool) (words : List (BitVec 15)) (x : Auth) : Auth :=
  if x.key.isSome then x
  else if fusePresent then { x with key := keyOf words } else { x with key := some 0, nokey := true }

/-- The challenge (R528). -/
def challenge (b : Blk) (tck : BitVec 36) : BitVec 112 :=
  b.auth.ctr ++ (if b.md.off then 0 else b.tb.runtime) ++ tck

/-- A CHAL capture (R527, R528): a read of the key waits for PORESET_N and for the steward's load (R519). -/
def chalEff (tck : BitVec 36) (fusePresent : Bool) (words : List (BitVec 15)) (b : Blk) : Blk :=
  if irIs 0x08 b = false then b
  else if b.auth.lockout ∨ b.auth.barred then capture 0 b
  else if fusePresent ∧ b.auth.key = none ∧ (b.md.off = true ∨ b.md.fuseWait = true) then b
  else
    let b := { b with auth := readKey fusePresent words b.auth }
    if b.auth.key.isNone then capture 0 b
    else
      let c := challenge b tck
      capture c.toNat { b with auth := { b.auth with ctr := b.auth.ctr + 1, chal := some c } }

/-- The response that the outstanding challenge wants for level q (R529): the first 112 bits of the HMAC. -/
def wanted (key : BitVec 256) (c : BitVec 112) (q : BitVec 8) : BitVec 112 :=
  BitVec.ofNat 112 (beNat ((hmac256 (beBytes 32 key.toNat) (beBytes 14 c.toNat ++ [q])).take 14))

/-- The response r for level q is right (R529). -/
def matchesChal (x : Auth) (q : BitVec 8) (r : BitVec 112) : Bool :=
  match x.key, x.chal with
  | some k, some c => decide (q.toNat = 1 ∨ q.toNat = 2) && decide (r = wanted k c q)
  | _, _ => false

/-- The authentication state after an update of RESP (R529): FAILS stops at the largest number its field holds. -/
def respAuth (q : BitVec 8) (r : BitVec 112) (x : Auth) : Auth :=
  if q = 0 then { x with level := 0, chal := none }
  else if matchesChal x q r then { x with level := q.toNat, fails := 0, chal := none }
  else { x with
    level := 0, fails := min 15 (x.fails + 1), lockout := true, barred := x.barred || decide (8 ≤ x.fails + 1), chal := none }

/-- An update of RESP (R529): a mismatch raises source 490. -/
def respEff (q : BitVec 8) (r : BitVec 112) (b : Blk) : Blk :=
  if irIs 0x09 b = false then b
  else
    let bad := decide (q ≠ 0) && !(matchesChal b.auth q r)
    let b := { b with auth := respAuth q r b.auth }
    if bad ∧ b.md.off = false then { stwRaise 490 b with auth := b.auth } else b

/-! The debug access register (R531 to R535). -/

/-- LEVEL permits the operation (R533). -/
def accAllowed (b : Blk) (wr : Bool) (a : Nat) : Bool :=
  if b.auth.level = 2 then true
  else if b.auth.level = 1 then
    if wr then decide (a = aB 0x305) || (decide (0x0F10000 ≤ a) && decide (a < 0x0F18000) && decide (0x2A0 ≤ a % 0x1000) &&
      decide (a % 0x1000 < 0x2A3))
    else !(isWindow a)
  else false

/-- An operation at a: op 1 reads, 2 writes (R531). While one is pending it is discarded; without the level it completes at
once with RESULT 3. -/
def accLaunch (op : Nat) (a : Nat) (c : BCell) (b : Blk) : Blk :=
  if irIs 0x0A b = false then b
  else if b.tap.acc.pend.isSome then onAcc (fun x => { x with busy := true }) b
  else if accAllowed b (decide (op = 2)) a then onAcc (fun x => { x with addr := a, pend := some (op, c) }) b
  else onAcc (fun x => { x with addr := a, result := 3, cell := if op = 2 then clean 0 else absentCell }) b

/-- The held address plus one (R531). -/
def heldNext (b : Blk) : Nat := (b.tap.acc.addr + 1) % 2 ^ 28

/-- An operation completes with a RESULT and a cell. -/
def accEnd (result : Nat) (c : BCell) (b : Blk) : Blk := onAcc (fun x => { x with pend := none, result := result, cell := c }) b

/-- While PORESET_N is asserted (R495, R523): the DBG registers answer, BLK.MODE reads 0x0000 and the other BLK registers
0x0000 with P = 1, and every other address is OFF. A request for a reset, or a halt, finds the block in reset. -/
def accOff (op a : Nat) (c : BCell) (b : Blk) : Blk :=
  if aB 0x300 ≤ a ∧ a < aB 0x400 then
    if op = 2 then accEnd 0 (clean 0) (if a = aB 0x303 ∨ a = aB 0x304 then b else regWrite .debug a none c b)
    else
      let x := regRead .debug a b
      accEnd 0 x.1 x.2
  else if aB 0x000 ≤ a ∧ a < aB 0x040 then
    accEnd 0 (if op = 2 then clean 0 else if a = aB 0x000 then clean 0 else absentCell) b
  else accEnd 5 (if op = 2 then clean 0 else absentCell) b

/-- An access of the host window goes out once on the host master port (R533); its operation is marked 3 or 4. -/
def accWindow (op a : Nat) (c : BCell) (b : Blk) : Blk :=
  if op = 3 ∨ op = 4 then b
  else
    onAcc (fun x => { x with pend := some (op + 2, c) }) (onHost (fun h => { h with
      hm := h.hm ++ [{ m := .debug, a := a, wr := decide (op = 2), cells := if op = 2 then [c] else [], two := false,
                       dead := false }] }) b)

/-- ACC_COMPLETE (R532, R534): the access is made. It waits during a warm reset (R493) and for a locked range (R231). -/
def accComplete (b : Blk) : Blk :=
  match b.tap.acc.pend with
  | none => b
  | some (op, c) =>
    let a := b.tap.acc.addr
    if b.md.off then accOff op a c b
    else if b.md.warm ∨ mustWait b .debug a = true then b
    else if isWindow a then accWindow op a c b
    else
      let b := onAcc (fun x => { x with pend := none }) b
      if op = 2 then
        let x := busStore .debug a none c b
        accEnd (if x.1 = 1 then 2 else if x.1 = 3 then 4 else 0) (clean 0) x.2
      else
        let x := busRead .debug a b
        accEnd (if x.2.1 = 1 then 2 else 0) x.1 x.2.2

/-- A capture of ACC (R531, R532): PENDING while the operation is; BUSY once after an operation that met a discarded one. -/
def accCaptureEff (b : Blk) : Blk :=
  if irIs 0x0A b = false then b
  else
    let x := b.tap.acc
    let res := if x.pend.isSome then 1 else if x.busy then 6 else x.result
    let b := capture (res * 2 ^ 45 + x.addr % 2 ^ 28 * 2 ^ 15 + b2n x.cell.p * 2 ^ 14 + x.cell.v.toNat) b
    if x.pend.isNone then onAcc (fun y => { y with busy := false }) b else b

/-! The commands. -/

/-- UPDATE_IR (R524). -/
def execUpdateIr (ir : BitVec 5) (s : State) := runPin (updateIrEff ir) s
/-- IDCODE_CAPTURE (R525). -/
def execIdcodeCapture (s : State) := runPin (fun b => if irIs 0x01 b then capture (idcode b) b else b) s
/-- DSTAT_CAPTURE (R526). -/
def execDstatCapture (s : State) := runPin (fun b => if irIs 0x02 b then capture (dstat b) b else b) s
/-- CHAL_CAPTURE (R528). -/
def execChalCapture (tck : BitVec 36) (fusePresent : Bool) (key : List (BitVec 15)) (s : State) :=
  runAuth (chalEff tck fusePresent key) s
/-- RESP_UPDATE (R529). -/
def execRespUpdate (q : BitVec 8) (r : BitVec 112) (s : State) := runAuth (respEff q r) s
/-- LOCKOUT_EXPIRE (R529). -/
def execLockoutExpire (s : State) := runAuth (fun b => { b with auth := { b.auth with lockout := false } }) s
/-- ACC_READ (R531). -/
def execAccRead (a : Nat) (s : State) := runPin (accLaunch 1 a (clean 0)) s
/-- ACC_WRITE (R531). -/
def execAccWrite (a : Nat) (c : BCell) (s : State) := runPin (accLaunch 2 a c) s
/-- ACC_READ_NEXT (R531). -/
def execAccReadNext (s : State) := runPin (fun b => accLaunch 1 (heldNext b) (clean 0) b) s
/-- ACC_WRITE_NEXT (R531). -/
def execAccWriteNext (c : BCell) (s : State) := runPin (fun b => accLaunch 2 (heldNext b) c b) s
/-- ACC_NOP (R531): nothing is launched. -/
def execAccNop (op : BitVec 3) (s : State) : Host.Outcome State Fault Refusal := runPin (fun b => let _ := op; b) s
/-- ACC_CAPTURE (R532). -/
def execAccCapture (s : State) := runPin accCaptureEff s
/-- ACC_COMPLETE (R532). -/
def execAccComplete (s : State) := runPin accComplete s

end Sys2Proof.Machine
end

