-- ==== Sys2Proof/Machine/HostPorts.lean ====
section
/-! DEFINITION. The host ports (R508 to R514): target requests, responses and time-outs of the master port, and the end of a warm
reset, when the requests that waited are made (R493). The host takes each response at once (log entry 44). -/

namespace Sys2Proof.Machine

/-! The target port (R509 to R511). -/

/-- The status of an access as ERR gives it (R508, R511): 1 refused, 2 poison. -/
def errMax (x y : Nat) : Nat := max x y

/-- A read request: both cells of a latched pair from one instant, else one access after another (R510). -/
def targetRead (a : Nat) (two : Bool) (b : Blk) : HtRsp × Blk :=
  if two then
    match instantPair .host a true b with
    | some (v, b) => ({ a := clean (lo14 v), b := clean (hi14 v), err := 0 }, b)
    | none =>
      let x := busRead .host a b
      let y := busRead .host ((a + 1) % 2 ^ 28) x.2.2
      ({ a := x.1, b := y.1, err := errMax x.2.1 y.2.1 }, y.2.2)
  else
    let x := busRead .host a b
    ({ a := x.1, b := clean 0, err := x.2.1 }, x.2.2)

/-- ERR of a write's status: a write dropped under R400 answers 1 (R401, R511). -/
def writeErr (n : Nat) : Nat := if n = 3 then 1 else n

/-- A write request (R510, R511). -/
def targetWrite (a : Nat) (two : Bool) (c d : BCell) (b : Blk) : HtRsp × Blk :=
  let x := busStore .host a none c b
  if two then
    let y := busStore .host ((a + 1) % 2 ^ 28) none d x.2
    ({ a := clean 0, b := clean 0, err := errMax (writeErr x.1) (writeErr y.1) }, y.2)
  else ({ a := clean 0, b := clean 0, err := writeErr x.1 }, x.2)

/-- A request: its address, whether it is of two cells, and the cells of a write. -/
def targetMake (q : Nat × Bool × Option (BCell × BCell)) (b : Blk) : HtRsp × Blk :=
  match q.2.2 with
  | some w => targetWrite q.1 q.2.1 w.1 w.2 b
  | none => targetRead q.1 q.2.1 b

/-- A request waits for a locked sequence that holds one of its words (R231). -/
def targetWaits (q : Nat × Bool × Option (BCell × BCell)) (b : Blk) : Bool :=
  mustWait b .host q.1 || (q.2.1 && mustWait b .host ((q.1 + 1) % 2 ^ 28))

/-- A request is presented: during a warm reset it is accepted while fewer than 8 wait (R493, R509); else it is made and
answered. -/
def targetEff (q : Nat × Bool × Option (BCell × BCell)) (b : Blk) : Blk :=
  if b.md.warm then (if b.host.htq.length < 8 then onHost (fun h => { h with htq := h.htq ++ [q] }) b else b)
  else if targetWaits q b then b
  else
    let r := targetMake q b
    onHost (fun h => { h with rsp := [r.1] }) r.2

/-- The requests that waited are made in order. -/
def targetMakeAll : List (Nat × Bool × Option (BCell × BCell)) → Blk → List HtRsp × Blk
  | [], b => ([], b)
  | q :: qs, b =>
    let x := targetMake q b
    let y := targetMakeAll qs x.2
    (x.1 :: y.1, y.2)

/-- The warm reset sequence ends (R493): PEND clears, the stores that were committed have drained, and the requests that waited
act on the warm values. -/
def warmDone (b : Blk) : Blk :=
  if b.md.warm then
    let b := onMd (fun m => { m with warm := false }) b
    let b := each settleStores (List.range (nEngines b)) b
    let qs := b.host.htq
    let x := targetMakeAll qs (onHost (fun h => { h with htq := [] }) b)
    if qs.isEmpty then x.2 else onHost (fun h => { h with rsp := x.1 }) x.2
  else b

/-! The master port (R512 to R514). -/

/-- The cells that an access delivers: those of the response, or 0x0000 with P = 1 for an error (R513). -/
def answerCells (q : HmReq) (cells : List BCell) (err : Bool) : List BCell :=
  let n := if q.two then 2 else 1
  (List.range n).map (fun i => if err then absentCell else nth absentCell cells i)

/-- What came back reaches its master. -/
def deliver (q : HmReq) (cells : List BCell) (err : Bool) (b : Blk) : Blk :=
  match q.m with
  | .engine e =>
    if q.wr ∨ q.dead ∨ (engOf b e).hmNeed = 0 then b else onEng e (fun x => { x with hmGot := x.hmGot ++ cells }) b
  | .debug => accEnd (if err then 2 else 0) (if q.wr then clean 0 else nth absentCell cells 0) b
  | .host => b
  | .steward => if q.wr then b else windowCell q.ctx (nth absentCell cells 0) b
  | .linkDma => if q.wr then b else windowCell q.ctx (nth absentCell cells 0) b

/-- The oldest access completes, with an error or without (R513). -/
def hmDone (cells : List BCell) (err : Bool) (b : Blk) : Blk :=
  match b.host.hm with
  | [] => b
  | q :: qs =>
    let b := onHost (fun h => { h with hm := qs }) b
    let b := if err then orReg (aB 0x01B) 1 (count (aB 0x021) b) else b
    deliver q (answerCells q cells err) err b

/-- A response (R513, R579): that of an access already given up is discarded. -/
def responseEff (cells : List BCell) (err : Bool) (b : Blk) : Blk :=
  if 0 < b.host.drop then onHost (fun h => { h with drop := h.drop - 1 }) b else hmDone cells err b

/-- The oldest access has waited HMTO ticks (R513): it ends as an error, and its response will be discarded. -/
def timeoutEff (b : Blk) : Blk :=
  if b.host.hm.isEmpty then b
  else hmDone [] true (onHost (fun h => { h with drop := h.drop + 1 }) (orReg (aB 0x01B) 2 b))

/-! The commands. -/

/-- HOST_TARGET_READ (R510). -/
def execHostTargetRead (a : Nat) (two : Bool) (s : State) := run (targetEff (a, two, none)) s
/-- HOST_TARGET_WRITE (R511). -/
def execHostTargetWrite (a : Nat) (two : Bool) (c d : BCell) (s : State) := run (targetEff (a, two, some (c, d))) s
/-- HM_RESPONSE (R513). -/
def execHmResponse (cells : List BCell) (err : Bool) (s : State) := run (responseEff cells err) s
/-- HM_TIMEOUT (R513). -/
def execHmTimeout (s : State) := run timeoutEff s
/-- WARM_RESET_COMPLETE (R493). -/
def execWarmResetComplete (s : State) := run warmDone s

end Sys2Proof.Machine
end

