-- ==== Sys2Proof/Machine/Install.lean ====
section
/-! DEFINITION. The installation of a patch record (R439 to R442), and the ways out of the trace queue (R520, R552). -/

namespace Sys2Proof.Machine

/-! The record in the staging buffer (R438 to R440). -/

/-- Cell i of the record. -/
def recCell (b : Blk) (i : Nat) : BitVec 14 := (nth (clean 0) b.mc.stage i).v
def nEnt (b : Blk) : Nat := (recCell b 5).toNat
def nMatch (b : Blk) : Nat := (recCell b 6).toNat
/-- L (R439). -/
def recLen (b : Blk) : Nat := 44 + 9 * nEnt b + 2 * nMatch b

/-- The nine cells of entry k, and the two of match register j. -/
def recEntry (b : Blk) (k : Nat) : List (BitVec 14) := (List.range 9).map (fun i => recCell b (7 + 9 * k + i))
def recMatchA (b : Blk) (j : Nat) : BitVec 14 := recCell b (7 + 9 * nEnt b + 2 * j)
def recMatchB (b : Blk) (j : Nat) : BitVec 14 := recCell b (8 + 9 * nEnt b + 2 * j)
/-- Cell i of the signature. -/
def recSig (b : Blk) (i : Nat) : BitVec 14 := recCell b (recLen b - 37 + i)

/-- The nano-word of an entry (R438): 14 bits a cell from cell 2, the last 12 in cell 8. -/
def nanoWord (l : List (BitVec 14)) : BitVec 96 :=
  BitVec.ofNat 96 (sumN ((List.range 7).map (fun i => (nth 0 l (2 + i)).toNat * 2 ^ (14 * i))))

/-- PH and PL (R429): each half holds an odd number of ones. -/
def nanoParity (w : BitVec 96) : Bool := oddOnes (w.extractLsb' 48 48) && oddOnes (w.extractLsb' 0 48)

/-- An entry's cells have 0 where R438 gives 0. -/
def entryFormat (l : List (BitVec 14)) : Bool :=
  decide (fld (nth 0 l 0) 0 8 = 0) && decide (fld (nth 0 l 1) 11 3 = 0) && decide (fld (nth 0 l 8) 12 2 = 0)

/-- FORMAT and every bit that R438 to R440 give as 0. -/
def recFormat (b : Blk) : Bool :=
  decide (recCell b 0 = 1) && decide (fld (recCell b 1) 5 9 = 0) && decide (fld (recCell b 4) 1 13 = 0) &&
  (List.range (nEnt b)).all (fun k => entryFormat (recEntry b k)) && decide (fld (recSig b 36) 0 6 = 0)

/-- The signed message (R440): cells 0 to L − 38, two bytes each. -/
def recMessage (b : Blk) : List (BitVec 8) := (List.range (recLen b - 37)).flatMap (fun i => beBytes 2 (recCell b i).toNat)

/-- The signature's 64 bytes (R440): its 37 cells in order, 14 bits each from the most significant, but the last 6 bits. -/
def recSignature (b : Blk) : List (BitVec 8) :=
  beBytes 64 (((List.range 37).foldl (fun n i => n * 2 ^ 14 + (recSig b i).toNat) 0) / 64)

/-- The match registers of the record: EN, ADDR, PIDX. -/
def recMatches (b : Blk) : List (Bool × Nat × Nat) :=
  (List.range (nMatch b)).map (fun j => (bit (recMatchA b j) 13, fld (recMatchA b j) 0 11, fld (recMatchB b j) 0 5))

/-- Every reference names an entry, and no two enabled match registers hold one address (R441). -/
def recRefs (b : Blk) : Bool :=
  let on := (recMatches b).filter (fun m => m.1)
  on.all (fun m => decide (m.2.2 < nEnt b)) &&
  (List.range (nEnt b)).all (fun k => !(bit (recCell b (7 + 9 * k)) 13) || decide (fld (recCell b (7 + 9 * k)) 8 5 < nEnt b)) &&
  decide ((on.map (fun m => m.2.1)).eraseDups.length = on.length)

/-- The conditions of an installation in their order (R441): the RESULT. -/
def installResult (b : Blk) : Nat :=
  if modeOf b ≠ 2 ∨ (List.range (nEngines b)).any (fun e => runBit b e || decide (runCtx b e ≠ 7)) = true then 6
  else if 32 < nEnt b ∨ 16 < nMatch b ∨ b.mc.stage.length ≠ recLen b then 9
  else if recFormat b = false then 2
  else if fld (recCell b 1) 0 5 ≠ Config.step.toNat then 3
  else if edVerify Config.patchKey (recMessage b) (recSignature b) = false then 4
  else if (List.range (nEnt b)).all (fun k => nanoParity (nanoWord (recEntry b k))) = false then 8
  else if recRefs b = false then 5
  else 1

/-- The set that the record holds (R441). -/
def recPatch (b : Blk) : Patch := { entries := (List.range (nEnt b)).map (recEntry b), mregs := recMatches b }

/-- The installer finishes (R441): on OK the set, PIDLO, PIDHI, TIMING and ACTIVE are replaced. -/
def installEff (b : Blk) : Blk :=
  if b.mc.busy then
    let r := installResult b
    let b1 := if r = 1 then
        setReg (aB 0x205) (BitVec.ofNat 14 (b2n (decide (0 < nMatch b)) * 4096 + fld (recCell b 4) 0 1 * 2048))
          (setReg (aB 0x209) (recCell b 3) (setReg (aB 0x208) (recCell b 2)
            (onMc (fun x => { x with patch := recPatch b }) b)))
      else b
    onMc (fun x => { x with busy := false }) (setReg (aB 0x205) (putf (reg b1 (aB 0x205)) 0 4 r) b1)
  else b

/-- PATCH_INSTALL_COMPLETE (R441). -/
def execPatchInstallComplete (s : State) := run installEff s

/-! Trace packets leave (R520, R552). -/

/-- The gathered packets leave in a TRACE frame (R105, R123). -/
def traceFrameOut (b : Blk) : Blk :=
  match b.trace.gather with
  | [] => b
  | g =>
    originate { typ := 11, dest := idAt b (aB 0x18A), src := ownId b, tag := b.tb.slot, hop := 0, bc := false,
                pay := traceWords g } (onTrace (fun t => { t with gather := [] }) b)

/-- Gather a packet, and send the frame when 8 are gathered. -/
def traceGather (p : TPacket) (b : Blk) : Blk :=
  let b := onTrace (fun t => { t with gather := t.gather ++ [p] }) b
  if 8 ≤ b.trace.gather.length then traceFrameOut b else b

/-- The oldest packet leaves on the TRACE port; with FRAMES it is gathered too. -/
def tracePacketEff (b : Blk) : Blk :=
  let b := traceMove b
  if trcPort b then
    match traceTake b with
    | (some p, b) =>
      let b := onTrace (fun t => { t with out := some p }) b
      if trcFrames b then traceGather p b else b
    | (none, b) => b
  else b

/-- With FRAMES alone, packets are gathered straight from the queue, up to n. -/
def gatherN : Nat → Blk → Blk
  | 0, b => b
  | n + 1, b =>
    match traceTake b with
    | (some p, b) => gatherN n (onTrace (fun t => { t with gather := t.gather ++ [p] }) b)
    | (none, b) => b

/-- A TRACE frame is sent: 8 packets are gathered, or the oldest has waited 256 SCLK cycles. -/
def traceFrameEff (b : Blk) : Blk :=
  let b := traceMove b
  if trcFrames b then
    traceFrameOut (if trcPort b then b else gatherN (8 - b.trace.gather.length) b)
  else b

/-- TRACE_PACKET_SEND (R520, R552). -/
def execTracePacketSend (s : State) := run tracePacketEff s
/-- TRACE_FRAME_SEND (R552). -/
def execTraceFrameSend (s : State) := run traceFrameEff s

end Sys2Proof.Machine
end

