-- ==== Sys2Proof/Machine/Sinters.lean ====
section
/-! DEFINITION. The sinter scan of field memory and its maintenance pass (R418 to R424), and the correction write-back on port B
(R413). The words of a borrowed block are never seen while the March runs, for the shadow serves them (R420): the model keeps
them as they were, and a March read fails where a fault of the hardware holds a bit (R422). -/

namespace Sys2Proof.Machine

/-- The sinter scans a block of field f (R418). -/
def scanned (b : Blk) (f blk : Nat) : Bool :=
  match regionFind b f blk 16 0 with
  | some r =>
    let pb := reg b (aF f (0x203 + 4 * r))
    decide (2 ≤ fld pb 8 2) && !(bit pb 12)
  | none => decide (2 ≤ fld (reg b (aF f 0x1C0)) 0 2)

/-- A locked sequence holds a cell of the block (R418). -/
def blockHeld (b : Blk) (f blk : Nat) : Bool := (List.range 32).any (fun i => heldByAny b (f * 0x10000 + 32 * blk + i))

def scanOn (b : Blk) (f : Nat) : Bool := bit (reg b (aF f 0x1C4)) 13

/-- The field offsets of step k's eight cells. -/
def stepCells (blk k : Nat) : List Nat := (List.range 8).map (fun i => 32 * blk + 8 * k + i)

/-- A held locked range has a cell that step k of a phase would access, so port B is not granted (R231, R399). -/
def stepHeld (b : Blk) (f blk k : Nat) : Bool := (stepCells blk k).any (fun off => heldByAny b (f * 0x10000 + off))

/-- The group of cells that March step k accesses (R419): up in the first, second, third and last element, down in the others. -/
def marchGroup (k : Nat) : Nat :=
  if k < 4 then k else if k < 20 then (k - 4) / 2 % 4 else if k < 36 then 3 - (k - 20) / 2 % 4 else (k - 36) % 4

/-- A copy step (R419): eight cells, through R408, into the shadow. -/
def copyStep (f : Nat) (b : Blk) : Blk :=
  let s := (fieldOf b f).sinter
  let put (off : Nat) (b : Blk) : Blk :=
    let x := rdMem (.fieldMem f off) 11 b
    onField f (fun g => { g with sinter := { g.sinter with shadow := g.sinter.shadow ++ [x.1] } }) x.2
  let b := each put (stepCells s.block s.stp) b
  onField f (fun g => { g with sinter :=
    if s.stp = 3 then { g.sinter with phase := 2, stp := 0 } else { g.sinter with stp := s.stp + 1 } }) b

/-- The group of four cells a bank that March step k first reads with a 1 (R419): the steps 12, 14, 16 and 18 make (r1). -/
def marchReads (k : Nat) : Option Nat := if 12 ≤ k ∧ k < 20 ∧ k % 2 = 0 then some ((k - 12) / 2) else none

/-- A fault shows at this March step (R422): some bit of a cell of the group is held. -/
def marchFault (b : Blk) (f : Nat) : Bool :=
  let g := fieldOf b f
  match marchReads g.sinter.stp with
  | some j => (stepCells g.sinter.block j).any (fun off => g.bad.any (fun x => x.1 == off && x.2 != 0))
  | none => false

/-- A March step (R419, R421, R422): a fault is reported once per visit, and none after a write has cancelled the result. -/
def marchStep (f : Nat) (b : Blk) : Blk :=
  let s := (fieldOf b f).sinter
  let hit := marchFault b f && !s.cancelled && !s.faulted
  let b := onField f (fun g => { g with sinter :=
    { g.sinter with faulted := s.faulted || hit, phase := if s.stp = 39 then 3 else 2, stp := if s.stp = 39 then 0 else s.stp + 1 } }) b
  if hit then raise f 455 (orReg (aF f 0x1C1) 0x20 (count (aF f 0x1D2) (setReg (aF f 0x1CC) (BitVec.ofNat 14 s.block) b))) else b

/-- The sinter leaves its block for the next one; block 0 follows block 2,047, and a pass is counted (R418). -/
def nextBlock (f : Nat) (b : Blk) : Blk :=
  let n := (fieldOf b f).sinter.block + 1
  let b := onField f (fun g => { g with sinter := { Sinter.cold with block := n % 2048 } }) b
  if n = 2048 then count (aF f 0x1D4) b else b

/-- Attempts per block (R421, R425). -/
def retries (b : Blk) (f : Nat) : Nat := max 1 (fld (reg b (aF f 0x1C4)) 8 2)

/-- The restore is done (R421): a cancelled block is borrowed again at once, or skipped after its last attempt. -/
def restored (f : Nat) (b : Blk) : Blk :=
  let s := (fieldOf b f).sinter
  if s.cancelled then
    if s.tries + 1 < retries b f then
      onField f (fun g => { g with sinter :=
        { g.sinter with phase := 1, stp := 0, shadow := [], cancelled := false, tries := s.tries + 1 } }) b
    else nextBlock f (count (aF f 0x1D3) b)
  else nextBlock f b

/-- A restore step (R419): eight cells go back with fresh check bits. -/
def restoreStep (f : Nat) (b : Blk) : Blk :=
  let s := (fieldOf b f).sinter
  let b := each (restoreCell f) ((List.range 8).map (fun i => 8 * s.stp + i)) b
  if s.stp = 3 then restored f b else onField f (fun g => { g with sinter := { g.sinter with stp := s.stp + 1 } }) b

/-- Seek the next block that is scanned, and borrow it with the first copy step (R418). -/
def seekStep (f : Nat) (b : Blk) : Blk :=
  let at0 := (fieldOf b f).sinter.block
  match ((List.range (2048 - at0)).map (fun i => at0 + i) ++ List.range at0).find? (scanned b f) with
  | none => b
  | some k =>
    let b := if k < at0 then count (aF f 0x1D4) b else b
    let b := onField f (fun g => { g with sinter := { g.sinter with block := k } }) b
    if blockHeld b f k then b
    else copyStep f (onField f (fun g => { g with sinter := { Sinter.cold with block := k, phase := 1 } }) b)

/-- SINTER_STEP (R418 to R423): a block in hand is finished even where EN has been cleared (log entry 43). -/
def sinterEff (f : Nat) (b : Blk) : Blk :=
  let g := fieldOf b f
  if clocked b f = false ∨ frozen b f = true ∨ g.clearing = true then b
  else if g.sinter.phase = 0 then (if scanOn b f then seekStep f b else b)
  else if g.sinter.phase = 1 then
    (if g.sinter.stp = 0 ∧ blockHeld b f g.sinter.block = true ∨ stepHeld b f g.sinter.block g.sinter.stp = true then b
     else copyStep f b)
  else if g.sinter.phase = 2 then (if stepHeld b f g.sinter.block (marchGroup g.sinter.stp) then b else marchStep f b)
  else if stepHeld b f g.sinter.block g.sinter.stp then b
  else restoreStep f b

/-- The maintenance pass of field f reads the word at a: a table memory of the field, or the route tables for F0 (R424). -/
def maintMem (b : Blk) (f a : Nat) : Option Mem :=
  match memAt a with
  | none => none
  | some (.fieldMem _ _) => none
  | some m => if memField m = f ∧ memPresent b m = true ∧ memClearing b m = false then some m else none

/-- One word of the pass is read, and rewritten where it is correctable (R424). -/
def maintRead (f a : Nat) (b : Blk) : Blk :=
  match maintMem b f a with
  | none => b
  | some m =>
    let r := eccDecode (rawWord b a)
    let b := (rdMem m 11 b).2
    if r.cls = .correctable then putWord m (storedWord r.cell.v) b else b

/-- The words that the pass reads on its way from its present one to a, in its order: an all-zero word is read without effect. -/
def maintWay (b : Blk) (f a : Nat) : List Nat :=
  let p := (fieldOf b f).mpos
  let l := b.mem.map (fun e => e.1)
  if p ≤ a then l.filter (fun x => decide (p ≤ x ∧ x < a)) else l.filter (fun x => decide (p ≤ x)) ++ l.filter (fun x => decide (x < a))

/-- SINTER_MAINT_READ (R424): the pass, in ascending address order, comes to the word at a. -/
def maintEff (f a : Nat) (b : Blk) : Blk :=
  if (maintMem b f a).isNone ∨ clocked b f = false ∨ frozen b f = true ∨ scanOn b f = false then b
  else
    let b := each (maintRead f) (maintWay b f a ++ [a]) b
    onField f (fun g => { g with mpos := a + 1 }) b

/-- ECC_WRITEBACK (R413): the queued write-back is granted port B, unless a locked sequence holds the word (R231). -/
def writebackEff (f : Nat) (b : Blk) : Blk :=
  match (fieldOf b f).wback with
  | none => b
  | some (off, d) =>
    if clocked b f = false ∨ heldByAny b (f * 0x10000 + off) = true then b
    else
      storeMem (.fieldMem f off) (clean d) (onField f (fun g => { g with wback := none }) b)

/-! The commands. -/

/-- SINTER_STEP (R419). -/
def execSinterStep (f : Nat) (s : State) := run (sinterEff f) s
/-- SINTER_MAINT_READ (R424). -/
def execSinterMaintRead (f a : Nat) (s : State) := run (maintEff f a) s
/-- ECC_WRITEBACK (R413). -/
def execEccWriteback (f : Nat) (s : State) := run (writebackEff f) s

end Sys2Proof.Machine
end

