-- ==== Sys2Proof/Machine/Dispatch.lean ====
section
/-! DEFINITION. One arm for each command: a direct call of its meaning. -/

namespace Sys2Proof.Machine

/-- What command `i` does to the state (the queue of waiting commands aside). -/
def exec (i : Instr) (s : State) : Host.Outcome State Fault Refusal :=
  match i with
  | .poresetAssert => Sys2Proof.Machine.execPoresetAssert s
  | .poresetRelease => Sys2Proof.Machine.execPoresetRelease s
  | .wresetN => Sys2Proof.Machine.execWresetN s
  | .warmReset cause => Sys2Proof.Machine.execWarmReset cause s
  | .warmResetComplete => Sys2Proof.Machine.execWarmResetComplete s
  | .coldReset cause => Sys2Proof.Machine.execColdReset cause s
  | .memoryClearComplete => Sys2Proof.Machine.execMemoryClearComplete s
  | .fuseLoadComplete present record => Sys2Proof.Machine.execFuseLoadComplete present record s
  | .fuseTimeout present => Sys2Proof.Machine.execFuseTimeout present s
  | .coldComplete => Sys2Proof.Machine.execColdComplete s
  | .killN low => Sys2Proof.Machine.execKillN low s
  | .dporN => Sys2Proof.Machine.execDporN s
  | .pswAckRise f => Sys2Proof.Machine.execPswAckRise f s
  | .pswAckFall f => Sys2Proof.Machine.execPswAckFall f s
  | .slotBoundary mark => Sys2Proof.Machine.execSlotBoundary mark s
  | .marker => Sys2Proof.Machine.execMarker s
  | .nobclkSet => Sys2Proof.Machine.execNobclkSet s
  | .capture k rising => Sys2Proof.Machine.execCapture k rising s
  | .fieldSlotBoundary f => Sys2Proof.Machine.execFieldSlotBoundary f s
  | .dispatch f => Sys2Proof.Machine.execDispatch f s
  | .overrun f => Sys2Proof.Machine.execOverrun f s
  | .fenTakeEffect f => Sys2Proof.Machine.execFenTakeEffect f s
  | .fenClearTakeEffect f => Sys2Proof.Machine.execFenClearTakeEffect f s
  | .hitFrame l w => Sys2Proof.Machine.execHitFrame l w s
  | .runFrame l w => Sys2Proof.Machine.execRunFrame l w s
  | .runcFrame l w => Sys2Proof.Machine.execRuncFrame l w s
  | .mapSample f rel => Sys2Proof.Machine.execMapSample f rel s
  | .borderCopy f => Sys2Proof.Machine.execBorderCopy f s
  | .primFrame l w => Sys2Proof.Machine.execPrimFrame l w s
  | .decisionFrame l w => Sys2Proof.Machine.execDecisionFrame l w s
  | .doorbellFrame l w => Sys2Proof.Machine.execDoorbellFrame l w s
  | .cmdFrame l w => Sys2Proof.Machine.execCmdFrame l w s
  | .replyFrame l w => Sys2Proof.Machine.execReplyFrame l w s
  | .statusFrame l w => Sys2Proof.Machine.execStatusFrame l w s
  | .timeFrame l w => Sys2Proof.Machine.execTimeFrame l w s
  | .traceFrame l w => Sys2Proof.Machine.execTraceFrame l w s
  | .idleFrame l w => Sys2Proof.Machine.execIdleFrame l w s
  | .trainingWord l w => Sys2Proof.Machine.execTrainingWord l w s
  | .linkSilenceDown l => Sys2Proof.Machine.execLinkSilenceDown l s
  | .frameTransmit l => Sys2Proof.Machine.execFrameTransmit l s
  | .creditIdleSend l => Sys2Proof.Machine.execCreditIdleSend l s
  | .statusSend => Sys2Proof.Machine.execStatusSend s
  | .timerTick f k => Sys2Proof.Machine.execTimerTick f k s
  | .timerFire f k => Sys2Proof.Machine.execTimerFire f k s
  | .gstartWrite m c => Sys2Proof.Machine.execGstartWrite m c s
  | .gstartRelease => Sys2Proof.Machine.execGstartRelease s
  | .geyserAgePending f src => Sys2Proof.Machine.execGeyserAgePending f src s
  | .deadlineExpire e n => Sys2Proof.Machine.execDeadlineExpire e n s
  | .quantumExpire e => Sys2Proof.Machine.execQuantumExpire e s
  | .govTick temps isense => Sys2Proof.Machine.execGovTick temps isense s
  | .kWindowEnd => Sys2Proof.Machine.execKWindowEnd s
  | .levelStep => Sys2Proof.Machine.execLevelStep s
  | .bucketLeak f => Sys2Proof.Machine.execBucketLeak f s
  | .lockoutExpire => Sys2Proof.Machine.execLockoutExpire s
  | .sleepCountSaturate => Sys2Proof.Machine.execSleepCountSaturate s
  | .hmResponse cells err => Sys2Proof.Machine.execHmResponse cells err s
  | .hmTimeout => Sys2Proof.Machine.execHmTimeout s
  | .hostTargetRead a two => Sys2Proof.Machine.execHostTargetRead a two s
  | .hostTargetWrite a two c d => Sys2Proof.Machine.execHostTargetWrite a two c d s
  | .registerWrite m a c => Sys2Proof.Machine.execRegisterWrite m a c s
  | .counterRead m a => Sys2Proof.Machine.execCounterRead m a s
  | .wideLoRead m a => Sys2Proof.Machine.execWideLoRead m a s
  | .capslotRead m k => Sys2Proof.Machine.execCapslotRead m k s
  | .tbSpsWrite m c => Sys2Proof.Machine.execTbSpsWrite m c s
  | .spsTakeEffect => Sys2Proof.Machine.execSpsTakeEffect s
  | .tbCtlSwld m => Sys2Proof.Machine.execTbCtlSwld m s
  | .sweepLoad => Sys2Proof.Machine.execSweepLoad s
  | .tbCtlRtclr m => Sys2Proof.Machine.execTbCtlRtclr m s
  | .runtimeClear => Sys2Proof.Machine.execRuntimeClear s
  | .tmrEnable m f k c => Sys2Proof.Machine.execTmrEnable m f k c s
  | .tmrPeriodWrite m f k c => Sys2Proof.Machine.execTmrPeriodWrite m f k c s
  | .mapalignWrite m f c => Sys2Proof.Machine.execMapalignWrite m f c s
  | .mapmaskWrite m f j c => Sys2Proof.Machine.execMapmaskWrite m f j c s
  | .matringWrite m f c => Sys2Proof.Machine.execMatringWrite m f c s
  | .fcfgWrite m f c => Sys2Proof.Machine.execFcfgWrite m f c s
  | .rotWrite m f c => Sys2Proof.Machine.execRotWrite m f c s
  | .decisionWrite m f c => Sys2Proof.Machine.execDecisionWrite m f c s
  | .primqWrite m f c => Sys2Proof.Machine.execPrimqWrite m f c s
  | .doorbellWrite m f c => Sys2Proof.Machine.execDoorbellWrite m f c s
  | .evclaimRead m f k => Sys2Proof.Machine.execEvclaimRead m f k s
  | .evdoneWrite m f k c => Sys2Proof.Machine.execEvdoneWrite m f k c s
  | .sourceTableWrite m a c => Sys2Proof.Machine.execSourceTableWrite m a c s
  | .eventEntry e => Sys2Proof.Machine.execEventEntry e s
  | .storeDrain e => Sys2Proof.Machine.execStoreDrain e s
  | .longOpComplete e => Sys2Proof.Machine.execLongOpComplete e s
  | .eccWriteback f => Sys2Proof.Machine.execEccWriteback f s
  | .sinterStep f => Sys2Proof.Machine.execSinterStep f s
  | .sinterMaintRead f a => Sys2Proof.Machine.execSinterMaintRead f a s
  | .eccfliphiArm m f c => Sys2Proof.Machine.execEccfliphiArm m f c s
  | .ectlRunSet m e c => Sys2Proof.Machine.execEctlRunSet m e c s
  | .ectlRunClear m e c => Sys2Proof.Machine.execEctlRunClear m e c s
  | .ctxdataRead m e => Sys2Proof.Machine.execCtxdataRead m e s
  | .ctxdataWrite m e c => Sys2Proof.Machine.execCtxdataWrite m e c s
  | .pairJoin m f c => Sys2Proof.Machine.execPairJoin m f c s
  | .pairSeparate m f c => Sys2Proof.Machine.execPairSeparate m f c s
  | .deadlineWrite m e n c => Sys2Proof.Machine.execDeadlineWrite m e n c s
  | .ledctlFill m f => Sys2Proof.Machine.execLedctlFill m f s
  | .ledctlEclr m f => Sys2Proof.Machine.execLedctlEclr m f s
  | .calWrite m n c => Sys2Proof.Machine.execCalWrite m n c s
  | .fabIdWrite m hi c => Sys2Proof.Machine.execFabIdWrite m hi c s
  | .routeEntryWrite m a c => Sys2Proof.Machine.execRouteEntryWrite m a c s
  | .linkEnable m l c => Sys2Proof.Machine.execLinkEnable m l c s
  | .linkDisable m l c => Sys2Proof.Machine.execLinkDisable m l c s
  | .retrain m l c => Sys2Proof.Machine.execRetrain m l c s
  | .cmdinWrite m c => Sys2Proof.Machine.execCmdinWrite m c s
  | .cmdoutRead m => Sys2Proof.Machine.execCmdoutRead m s
  | .cmdctlInflush m => Sys2Proof.Machine.execCmdctlInflush m s
  | .cmdctlOutflush m => Sys2Proof.Machine.execCmdctlOutflush m s
  | .hostbellsetWrite m c => Sys2Proof.Machine.execHostbellsetWrite m c s
  | .rstctlWarm m => Sys2Proof.Machine.execRstctlWarm m s
  | .rstctlCold m => Sys2Proof.Machine.execRstctlCold m s
  | .fpwrOn m c => Sys2Proof.Machine.execFpwrOn m c s
  | .fpwrOff m c => Sys2Proof.Machine.execFpwrOff m c s
  | .modeReqConfig m => Sys2Proof.Machine.execModeReqConfig m s
  | .modeReqLinkup m => Sys2Proof.Machine.execModeReqLinkup m s
  | .modeReqFreerun m => Sys2Proof.Machine.execModeReqFreerun m s
  | .modeReqAcquire m => Sys2Proof.Machine.execModeReqAcquire m s
  | .modeReqSelftest m => Sys2Proof.Machine.execModeReqSelftest m s
  | .modeReqWatch m => Sys2Proof.Machine.execModeReqWatch m s
  | .modeReqSafestop m => Sys2Proof.Machine.execModeReqSafestop m s
  | .modeReqWake m => Sys2Proof.Machine.execModeReqWake m s
  | .drainEntry => Sys2Proof.Machine.execDrainEntry s
  | .drainComplete => Sys2Proof.Machine.execDrainComplete s
  | .watchEntryComplete => Sys2Proof.Machine.execWatchEntryComplete s
  | .wake ticks => Sys2Proof.Machine.execWake ticks s
  | .selftestComplete => Sys2Proof.Machine.execSelftestComplete s
  | .freezeWrite m c => Sys2Proof.Machine.execFreezeWrite m c s
  | .holdEntry => Sys2Proof.Machine.execHoldEntry s
  | .holdExit => Sys2Proof.Machine.execHoldExit s
  | .haltallHalt m c => Sys2Proof.Machine.execHaltallHalt m c s
  | .haltallRelease m c => Sys2Proof.Machine.execHaltallRelease m c s
  | .dbgResetWarm m => Sys2Proof.Machine.execDbgResetWarm m s
  | .dbgResetCold m => Sys2Proof.Machine.execDbgResetCold m s
  | .dbgctlHalt m e c => Sys2Proof.Machine.execDbgctlHalt m e c s
  | .dbgctlRelease m e c => Sys2Proof.Machine.execDbgctlRelease m e c s
  | .dbgctlForce m e c => Sys2Proof.Machine.execDbgctlForce m e c s
  | .dbgctlStep m e c => Sys2Proof.Machine.execDbgctlStep m e c s
  | .engineHalt e => Sys2Proof.Machine.execEngineHalt e s
  | .stimWrite m f n c => Sys2Proof.Machine.execStimWrite m f n c s
  | .tracePacketSend => Sys2Proof.Machine.execTracePacketSend s
  | .traceFrameSend => Sys2Proof.Machine.execTraceFrameSend s
  | .pctlLreset m => Sys2Proof.Machine.execPctlLreset m s
  | .ploadWrite m c => Sys2Proof.Machine.execPloadWrite m c s
  | .pctlInstall m => Sys2Proof.Machine.execPctlInstall m s
  | .patchInstallComplete => Sys2Proof.Machine.execPatchInstallComplete s
  | .idcodeCapture => Sys2Proof.Machine.execIdcodeCapture s
  | .dstatCapture => Sys2Proof.Machine.execDstatCapture s
  | .chalCapture tck fusePresent key => Sys2Proof.Machine.execChalCapture tck fusePresent key s
  | .respUpdate q r => Sys2Proof.Machine.execRespUpdate q r s
  | .accRead a => Sys2Proof.Machine.execAccRead a s
  | .accWrite a c => Sys2Proof.Machine.execAccWrite a c s
  | .accReadNext => Sys2Proof.Machine.execAccReadNext s
  | .accWriteNext c => Sys2Proof.Machine.execAccWriteNext c s
  | .accNop op => Sys2Proof.Machine.execAccNop op s
  | .accCapture => Sys2Proof.Machine.execAccCapture s
  | .accComplete => Sys2Proof.Machine.execAccComplete s
  | .stewardTakePacket => Sys2Proof.Machine.execStewardTakePacket s
  | .cmdForward => Sys2Proof.Machine.execCmdForward s
  | .ping => Sys2Proof.Machine.execPing s
  | .ident => Sys2Proof.Machine.execIdent s
  | .read => Sys2Proof.Machine.execRead s
  | .write => Sys2Proof.Machine.execWrite s
  | .fill => Sys2Proof.Machine.execFill s
  | .mode => Sys2Proof.Machine.execMode s
  | .status => Sys2Proof.Machine.execStatus s
  | .loadset => Sys2Proof.Machine.execLoadset s
  | .swapset => Sys2Proof.Machine.execSwapset s
  | .channelMapSwap f => Sys2Proof.Machine.execChannelMapSwap f s
  | .gainPageSwap f => Sys2Proof.Machine.execGainPageSwap f s
  | .windowTableSwap f => Sys2Proof.Machine.execWindowTableSwap f s
  | .routeTableSwap => Sys2Proof.Machine.execRouteTableSwap s
  | .safedecSwap f => Sys2Proof.Machine.execSafedecSwap f s
  | .engineStop => Sys2Proof.Machine.execEngineStop s
  | .engineStart => Sys2Proof.Machine.execEngineStart s
  | .engineCtxrd => Sys2Proof.Machine.execEngineCtxrd s
  | .engineCtxwr => Sys2Proof.Machine.execEngineCtxwr s
  | .route => Sys2Proof.Machine.execRoute s
  | .patchLreset => Sys2Proof.Machine.execPatchLreset s
  | .patchAppend => Sys2Proof.Machine.execPatchAppend s
  | .patchInstall => Sys2Proof.Machine.execPatchInstall s
  | .calrd => Sys2Proof.Machine.execCalrd s
  | .calwr => Sys2Proof.Machine.execCalwr s
  | .clear => Sys2Proof.Machine.execClear s
  | .restore => Sys2Proof.Machine.execRestore s
  | .event => Sys2Proof.Machine.execEvent s
  | .counters => Sys2Proof.Machine.execCounters s
  | .deferredDone n => Sys2Proof.Machine.execDeferredDone n s
  | .deferredTimeout n => Sys2Proof.Machine.execDeferredTimeout n s
  | .nop e => Sys2Proof.Machine.execNop e s
  | .dup e => Sys2Proof.Machine.execDup e s
  | .drop e => Sys2Proof.Machine.execDrop e s
  | .swap e => Sys2Proof.Machine.execSwap e s
  | .overSyl e => Sys2Proof.Machine.execOver e s
  | .rot e => Sys2Proof.Machine.execRot e s
  | .nip e => Sys2Proof.Machine.execNip e s
  | .tuck e => Sys2Proof.Machine.execTuck e s
  | .dup2 e => Sys2Proof.Machine.execDup2 e s
  | .drop2 e => Sys2Proof.Machine.execDrop2 e s
  | .tor e => Sys2Proof.Machine.execTor e s
  | .fromr e => Sys2Proof.Machine.execFromr e s
  | .rfetch e => Sys2Proof.Machine.execRfetch e s
  | .pick e => Sys2Proof.Machine.execPick e s
  | .depth e => Sys2Proof.Machine.execDepth e s
  | .rdrop e => Sys2Proof.Machine.execRdrop e s
  | .add e => Sys2Proof.Machine.execAdd e s
  | .sub e => Sys2Proof.Machine.execSub e s
  | .adc e => Sys2Proof.Machine.execAdc e s
  | .sbc e => Sys2Proof.Machine.execSbc e s
  | .and e => Sys2Proof.Machine.execAnd e s
  | .or e => Sys2Proof.Machine.execOr e s
  | .xor e => Sys2Proof.Machine.execXor e s
  | .not e => Sys2Proof.Machine.execNot e s
  | .neg e => Sys2Proof.Machine.execNeg e s
  | .inc e => Sys2Proof.Machine.execInc e s
  | .dec e => Sys2Proof.Machine.execDec e s
  | .shl e => Sys2Proof.Machine.execShl e s
  | .shr e => Sys2Proof.Machine.execShr e s
  | .sar e => Sys2Proof.Machine.execSar e s
  | .rol e => Sys2Proof.Machine.execRol e s
  | .ror e => Sys2Proof.Machine.execRor e s
  | .shl1 e => Sys2Proof.Machine.execShl1 e s
  | .shr1 e => Sys2Proof.Machine.execShr1 e s
  | .eq e => Sys2Proof.Machine.execEq e s
  | .lt e => Sys2Proof.Machine.execLt e s
  | .ult e => Sys2Proof.Machine.execUlt e s
  | .gt e => Sys2Proof.Machine.execGt e s
  | .zeq e => Sys2Proof.Machine.execZeq e s
  | .min e => Sys2Proof.Machine.execMin e s
  | .max e => Sys2Proof.Machine.execMax e s
  | .abs e => Sys2Proof.Machine.execAbs e s
  | .satadd e => Sys2Proof.Machine.execSatadd e s
  | .satsub e => Sys2Proof.Machine.execSatsub e s
  | .clz e => Sys2Proof.Machine.execClz e s
  | .popc e => Sys2Proof.Machine.execPopc e s
  | .mullo e => Sys2Proof.Machine.execMullo e s
  | .sext7 e => Sys2Proof.Machine.execSext7 e s
  | .ld e => Sys2Proof.Machine.execLd e s
  | .st e => Sys2Proof.Machine.execSt e s
  | .ldi e => Sys2Proof.Machine.execLdi e s
  | .sti e => Sys2Proof.Machine.execSti e s
  | .ldp e => Sys2Proof.Machine.execLdp e s
  | .stp e => Sys2Proof.Machine.execStp e s
  | .ldv e => Sys2Proof.Machine.execLdv e s
  | .plusst e => Sys2Proof.Machine.execPlusst e s
  | .ldc e => Sys2Proof.Machine.execLdc e s
  | .stc e => Sys2Proof.Machine.execStc e s
  | .bitset e => Sys2Proof.Machine.execBitset e s
  | .bitclr e => Sys2Proof.Machine.execBitclr e s
  | .xchg e => Sys2Proof.Machine.execXchg e s
  | .lock e => Sys2Proof.Machine.execLock e s
  | .cas e => Sys2Proof.Machine.execCas e s
  | .pref e => Sys2Proof.Machine.execPref e s
  | .br e => Sys2Proof.Machine.execBr e s
  | .bz e => Sys2Proof.Machine.execBz e s
  | .bnz e => Sys2Proof.Machine.execBnz e s
  | .call e => Sys2Proof.Machine.execCall e s
  | .ret e => Sys2Proof.Machine.execRet e s
  | .jmps e => Sys2Proof.Machine.execJmps e s
  | .calls e => Sys2Proof.Machine.execCalls e s
  | .loop e => Sys2Proof.Machine.execLoop e s
  | .sbr e => Sys2Proof.Machine.execSbr e s
  | .sbz e => Sys2Proof.Machine.execSbz e s
  | .sbnz e => Sys2Proof.Machine.execSbnz e s
  | .rete e => Sys2Proof.Machine.execRete e s
  | .trap e => Sys2Proof.Machine.execTrap e s
  | .sleep e => Sys2Proof.Machine.execSleep e s
  | .yield e => Sys2Proof.Machine.execYield e s
  | .halt e => Sys2Proof.Machine.execHalt e s
  | .mul e => Sys2Proof.Machine.execMul e s
  | .mulu e => Sys2Proof.Machine.execMulu e s
  | .div e => Sys2Proof.Machine.execDiv e s
  | .divu e => Sys2Proof.Machine.execDivu e s
  | .dadd e => Sys2Proof.Machine.execDadd e s
  | .dsub e => Sys2Proof.Machine.execDsub e s
  | .fadd e => Sys2Proof.Machine.execFadd e s
  | .fsub e => Sys2Proof.Machine.execFsub e s
  | .fmul e => Sys2Proof.Machine.execFmul e s
  | .fdiv e => Sys2Proof.Machine.execFdiv e s
  | .fsqrt e => Sys2Proof.Machine.execFsqrt e s
  | .fcmp e => Sys2Proof.Machine.execFcmp e s
  | .ftoi e => Sys2Proof.Machine.execFtoi e s
  | .itof e => Sys2Proof.Machine.execItof e s
  | .fmin e => Sys2Proof.Machine.execFmin e s
  | .fmax e => Sys2Proof.Machine.execFmax e s
  | .smallLiteral e => Sys2Proof.Machine.execSmallLiteral e s
  | .lit e => Sys2Proof.Machine.execLit e s
  | .lit2 e => Sys2Proof.Machine.execLit2 e s
  | .sync e => Sys2Proof.Machine.execSync e s
  | .isync e => Sys2Proof.Machine.execIsync e s
  | .mfc e => Sys2Proof.Machine.execMfc e s
  | .mtc e => Sys2Proof.Machine.execMtc e s
  | .fld e => Sys2Proof.Machine.execFld e s
  | .fst e => Sys2Proof.Machine.execFst e s
  | .fdup e => Sys2Proof.Machine.execFdup e s
  | .fdrop e => Sys2Proof.Machine.execFdrop e s
  | .fswap e => Sys2Proof.Machine.execFswap e s
  | .dbgbrk e => Sys2Proof.Machine.execDbgbrk e s
  | .stim e => Sys2Proof.Machine.execStim e s
  | .illegal e => Sys2Proof.Machine.execIllegal e s
  | .ldm e => Sys2Proof.Machine.execLdm e s
  | .stm e => Sys2Proof.Machine.execStm e s
  | .movb e => Sys2Proof.Machine.execMovb e s
  | .dsadd e => Sys2Proof.Machine.execDsadd e s
  | .dssub e => Sys2Proof.Machine.execDssub e s
  | .evclaim e => Sys2Proof.Machine.execEvclaim e s
  | .evdone e => Sys2Proof.Machine.execEvdone e s
  | .setview e => Sys2Proof.Machine.execSetview e s
  | .getview e => Sys2Proof.Machine.execGetview e s
  | .ctxrd e => Sys2Proof.Machine.execCtxrd e s
  | .ctxwr e => Sys2Proof.Machine.execCtxwr e s
  | .setrm e => Sys2Proof.Machine.execSetrm e s
  | .cycles e => Sys2Proof.Machine.execCycles e s
  | .ptest e => Sys2Proof.Machine.execPtest e s
  | .pclr e => Sys2Proof.Machine.execPclr e s
  | .slotend e => Sys2Proof.Machine.execSlotend e s
  | .compand e => Sys2Proof.Machine.execCompand e s
  | .expand e => Sys2Proof.Machine.execExpand e s
  | .crcstep e => Sys2Proof.Machine.execCrcstep e s
  | .bitrev e => Sys2Proof.Machine.execBitrev e s
  | .parity e => Sys2Proof.Machine.execParity e s
  | .fwiden e => Sys2Proof.Machine.execFwiden e s
  | .fnarrow e => Sys2Proof.Machine.execFnarrow e s
  | .wordOutsideFrame l w => Sys2Proof.Machine.execWordOutsideFrame l w s
  | .badtypeFrame l w => Sys2Proof.Machine.execBadtypeFrame l w s
  | .trainingWordsSent l => Sys2Proof.Machine.execTrainingWordsSent l s
  | .idleCycle e => Sys2Proof.Machine.execIdleCycle e s
  | .updateIr ir => Sys2Proof.Machine.execUpdateIr ir s

end Sys2Proof.Machine
end

