-- ==== Sys2Proof/Safety.lean ====
section
/-! DEFINITION. What the claims about the block say, in their own terms: when memory is well formed, when the authentication
state is legal, when an engine stands at a syllable, and what a syllable, a raise or a debit leaves alone. -/

namespace Sys2Proof.Machine

/-! Memory. -/

/-- Memory is in its one canonical form: addresses strictly rising, no entry equal to the all-zero word that an unlisted
address holds (R410). -/
def Memory.wf (m : KMap (BitVec 20)) : Bool := canonical (fun _ => 0) m

/-! Authentication (R526 to R530). -/

/-- The authentication state is one that R526 to R530 allow: LEVEL is 0, 1 or 2; with LOCKOUT or BARRED it is 0 and no
challenge is outstanding; FAILS fits its field; a challenge is outstanding only where the key has been read; BARRED means that
FAILS has reached 8. -/
structure Auth.Legal (x : Auth) : Prop where
  level : x.level ≤ 2
  locked : x.lockout = true ∨ x.barred = true → x.level = 0 ∧ x.chal = none
  fails : x.fails ≤ 15
  key : x.chal.isSome = true → x.key.isSome = true
  barred : x.barred = true → 8 ≤ x.fails

/-! What quiet changes touch. -/

/-- A register that neither the raise of a source nor a debit of the ledger writes. -/
def quietReg (a : Nat) : Bool :=
  !(decide (aB 0x1C0 ≤ a ∧ a < aB 0x1C8)) &&
  !(decide (aF 0 0 ≤ a ∧ a < aF 8 0) && (decide (0x102 ≤ a % 0x1000 ∧ a % 0x1000 < 0x107) ||
    decide (0x18F ≤ a % 0x1000 ∧ a % 0x1000 < 0x194) || [0x1C1, 0x1CD, 0x1CE, 0x1CF].contains (a % 0x1000))) &&
  !(decide (aE 0 0 ≤ a ∧ a < aE 64 0 ∧ a % 0x40 = 0x28))

/-- A context but for its STATE. -/
def still (y : Ctx) : Ctx := { y with state := 0 }

/-- An engine but for its contexts' STATE, its promotions and its essential spend. -/
def bare (x : Engine) : Engine := { x with ctxs := mapAll still x.ctxs, prom := [], espFrac := 0 }

/-- Context `y` is `x`, but that a sleeper may have been woken (R349). -/
def Woken (x y : Ctx) : Prop := y = x ∨ (x.state = 2 ∧ y = { x with state := 1 })

/-- What of a field neither a raise nor a debit touches. -/
def pathOf (g : Field) : Pwr × Bool × Bool × List Tag × Tag × Bool × List SlotRec × List Swap × Nat × Nat × Nat × CtrlFaults :=
  (g.pwr, g.clk, g.clearing, g.bq, g.cur, g.fenEff, g.pipe, g.swaps, g.step, g.code, g.hot, g.ctrl)

/-! What a command does to the block. -/

/-- The command answered a next state that holds block `d`, the authentication state and the queue being as they were. -/
def Becomes (st : State) (c : Instr) (d : Blk) : Prop := exec c st = .next (st.put { d with auth := st.blk.auth })

/-- The command answered a next state whose block has a property. -/
def Reaches (st : State) (c : Instr) (p : Blk → Prop) : Prop := ∃ t, exec c st = .next t ∧ t.pending = st.pending ∧ p t.blk

/-- Every field has processed the boundaries launched, and none of its slots is overdue (R25, R39). -/
def CaughtUp (b : Blk) : Prop :=
  ∀ f, f < nFields b → (fieldOf b f).bq = [] ∧ ∀ r ∈ (fieldOf b f).pipe, isLate b f r = false

/-- The slot that MARKOFS names at a boundary to which R58 gives the number `n0` (R57, R64): at a sweep boundary the new TB.SPS
counts, but in ACQUIRE the SPS in effect before it (log entry 101). -/
def markTarget (b : Blk) (n0 : Nat) : Nat :=
  (reg b (aB 0x043)).toNat % (if n0 = 0 ∧ modeOf b ≠ 5 then (reg b (aB 0x042)).toNat else b.tb.spsEff)

/-- `t` is `b` after the timebase took a BCLK edge (R57 to R61, R64, R82): with `rs` a resynchronisation by a marker. Every field
whose clock runs has the one new boundary before it, with the slot and sweep, the no-lock flag of R482 and the release masks. -/
structure BoundaryTaken (rs : Bool) (b t : Blk) : Prop where
  slot : t.tb.slot = BitVec.ofNat 14 (if rs then markTarget b (nextSlot b.tb) else nextSlot b.tb)
  sps : t.tb.spsEff = if nextSlot b.tb = 0 ∧ (rs = false ∨ markTarget b 0 = 0) then (reg b (aB 0x042)).toNat else b.tb.spsEff
  sweep : t.tb.sweep = if nextSlot b.tb = 0 ∧ (rs = false ∨ markTarget b 0 = 0) then
    (if bit (reg b (aB 0x040)) 0 then regPair b (aB 0x04A) else b.tb.sweep + 1) else b.tb.sweep
  runtime : t.tb.runtime = if bit (reg b (aB 0x040)) 1 then 0 else b.tb.runtime + 1
  seq : t.tb.seq = b.tb.seq + 1
  launched : ∀ f, f < nFields t → clocked t f = true → ∃ g, (fieldOf t f).bq = [g] ∧ g.slot = t.tb.slot ∧ g.sweep = t.tb.sweep ∧
    g.seq = t.tb.seq ∧ g.nolock = (decide (modeOf t = 5) || ((decide (modeOf t = 6) || decide (modeOf t = 7)) && !(locked t)))

/-- `t` is `b` after a warm reset for `cause` started (R182, R490, R493): the mode is CONFIG with PEND at 1, RSTCAUSE has the cause's
bit, every other register of the block and its fields that the reset's own source does not touch holds its warm value, the slots and
queues are empty, and contexts keep their registers with empty stacks. -/
structure WarmStarted (cause : ResetCause) (b t : Blk) : Prop where
  warm : t.md.warm = true
  mode : modeOf t = 2
  prev : fld (reg t (aB 0x000)) 4 4 = modeOf b
  cause : reg t (aB 0x005) = warmVal (aB 0x005) (reg b (aB 0x005)) ||| warmCauseBit cause
  regs : ∀ a, a < 0x0F30000 → quietReg a = true → a ≠ aB 0x000 → a ≠ aB 0x005 → reg t a = warmVal a (reg b a)
  words : (∀ f, (fieldOf b f).sinter.phase = 0) → ∀ a, a < 0x220000 → rawWord t a = rawWord b a
  slots : ∀ f, (fieldOf t f).pipe = [] ∧ (fieldOf t f).abuf = [] ∧ (fieldOf t f).srcs = [] ∧ (fieldOf t f).fenEff = false
  power : ∀ f, f < 8 → (fieldOf t f).pwr = (fieldOf b f).pwr ∧ (fieldOf t f).clk = true
  caches : ∀ e c, (ctxOf t e c).data = [] ∧ (ctxOf t e c).ret = [] ∧ (ctxOf t e c).state = 0
  ctxs : ∀ e c, e < 64 → c < 5 → (ctxOf t e c).pc = (ctxOf b e c).pc ∧ (ctxOf t e c).ps = (ctxOf b e c).ps ∧
    (ctxOf t e c).views = (ctxOf b e c).views
  engs : ∀ e, (engOf t e).run = none ∧ (engOf t e).locks = [] ∧ (engOf t e).lops = []
  sbuf : ∀ e, (engOf t e).sbuf = (engOf b e).sbuf
  links : ∀ l, l < 96 → (linkOf t l).st ≤ 1 ∧ (linkOf t l).txq = []
  steward : t.stw = { Stw.cold with cmdNum := b.stw.cmdNum }
  counters : t.tb.slot = b.tb.slot ∧ t.tb.sweep = b.tb.sweep ∧ t.tb.runtime = b.tb.runtime
  patch : t.mc.patch = b.mc.patch
  tap : b.tap.acc.pend = none → t.tap = b.tap

/-- `t` is `b` after a cold reset for `cause` started (R410, R490, R492, R501): the mode is COLD, RSTCAUSE has the cause's bit alone,
every register outside the debug island holds its cold value, memory is all zero and every unit is in its cold state. -/
structure ColdStarted (cause : ResetCause) (b t : Blk) : Prop where
  mode : modeOf t = 1
  prev : fld (reg t (aB 0x000)) 4 4 = 0
  cause : reg t (aB 0x005) = coldCauseBit cause
  regs : ∀ a, a ≠ aB 0x000 → a ≠ aB 0x005 →
    reg t a = if aB 0x300 ≤ a ∧ a < aB 0x400 then reg b a else coldReg a
  words : t.mem = []
  fields : ∀ f, f < 8 → (fieldOf t f).clearing = true ∧ (fieldOf t f).pipe = [] ∧ (fieldOf t f).srcs = [] ∧
    (powered b f = true → (fieldOf t f).pwr = .on)
  engines : ∀ e, e < 64 → engOf t e = Engine.cold
  links : ∀ l, l < 96 → linkOf t l = Link.cold
  steward : t.stw = Stw.cold
  waits : t.md.fuseWait = true ∧ t.md.clearWait = true ∧ t.md.warm = false ∧ t.md.off = false
  counters : t.tb.slot = 0 ∧ t.tb.sweep = 0 ∧ t.tb.runtime = 0 ∧ t.tb.spsEff = 2
  patch : t.mc.patch = Patch.none
  trace : t.trace = b.trace
  tap : b.tap.acc.pend = none → t.tap = b.tap

/-- Frame `w` arrives whole and good on link l, whose receive side is UP, not silent, and in no frame: its words are in their kinds and within the
buffer, the C bits fit the type, the latency is within the one measured, the trailer `t` carries the right CRC and the SEQ expected,
and the credits it returns fit (R91, R92, R106, R107, R111 to R113, R117). -/
structure GoodWire (b : Blk) (l : Nat) (w : WireFrame) (t : BitVec 64) : Prop where
  live : rxLive b l = true
  loop : linkLoop b l = false
  shape : wireShape w = true
  up : (linkOf b l).st = 2
  quiet : (linkOf b l).quiet < 5
  whole : (linkOf b l).part = none
  trl : w.trl = some t
  len : w.pay.length ≤ if roleOf b l = 0 then 512 else 34
  cbits : ∀ x ∈ w.pay, wC x = decide (hType (wBody w.hdr) = 3)
  lat : linkLatency b l (hTag (wBody w.hdr)) ≤ fld (reg b (aL l 2)) 7 7
  crc : frameCrc (wBody w.hdr) (w.pay.map wBody) = tCrc (wBody t)
  seq : (linkOf b l).exp = none ∨ (linkOf b l).exp = some (tSeq (wBody t))
  cred : roleOf b l = 1 → credOf b l + tCredit (wBody t) ≤ 128

/-- What a good frame leaves at its link before it is handled (R112, R113, R115, R134): the silence ends, the next SEQ is expected, a
fabric link takes the trailer's credits, and alignment takes the TAG. -/
def linkTook (l : Nat) (w : WireFrame) (t : BitVec 64) (b : Blk) : Blk :=
  alignPass (l / 12) (l % 12) (hTag (wBody w.hdr)) (onLink l (fun k => { k with quiet := 0, exp := some (tSeq (wBody t) + 1) })
    (if roleOf b l = 1 then setCred l (credOf b l + tCredit (wBody t)) b else b))

/-- The frame's words lie in the receive buffer while `f` handles it, and are freed once no copy waits to be sent; credits owed that
reach THRESH go out (R112; log entries 104 and 105). -/
def handled (l n : Nat) (f : Blk → Blk) (b : Blk) : Blk :=
  creditAuto l (freeFrame l (linkOf b l).rxn (f (bufferFrame l n b)))

/-- A frame received on link l as the fabric handles it (R93), with its number in the receive buffer. -/
def frameOf (l id : Nat) (w : WireFrame) (t : BitVec 64) : Frame :=
  let h := wBody w.hdr
  { typ := hType h, dest := hDest h, src := hSrc h, tag := hTag h, hop := hHop h, bc := tBc (wBody t),
    pay := w.pay.map (fun x => (wBody x, wP x)), hold := some (l, id) }

/-- Commands reach the units: PORESET_N is released and no warm reset is in progress (R493, R501). -/
def Awake (b : Blk) : Prop := b.md.off = false ∧ b.md.warm = false

/-- A command of the reset pins or of the debug island: it acts while PORESET_N is asserted too (R501, R523). -/
def actsInReset : Instr → Bool
  | .poresetAssert | .poresetRelease | .killN _ | .dporN | .updateIr _ | .idcodeCapture | .dstatCapture | .chalCapture _ _ _
  | .respUpdate _ _ | .lockoutExpire | .accRead _ | .accWrite _ _ | .accReadNext | .accWriteNext _ | .accNop _ | .accCapture
  | .accComplete => true
  | _ => false

/-- A command that acts on the authentication state (R526 to R530, R553). -/
def actsOnAuth : Instr → Bool
  | .dporN | .chalCapture _ _ _ | .respUpdate _ _ | .lockoutExpire => true
  | _ => false

/-- The offsets of block and field registers whose writes follow a rule of their own (R476, R495, R522, R562, R563). -/
def ruledBlk (off : Nat) : Bool :=
  [0x001, 0x006, 0x007, 0x010, 0x013, 0x01A, 0x020, 0x147, 0x040, 0x042, 0x050, 0x0C4, 0x0C6, 0x0C7, 0x0C8, 0x182, 0x183,
    0x204, 0x206, 0x300, 0x302, 0x303, 0x304, 0x305].contains off ||
  (decide (0x0D8 ≤ off) && decide (off < 0x0E0)) || (decide (0x100 ≤ off) && decide (off < 0x12A))
def ruledField (off : Nat) : Bool :=
  [0x000, 0x002, 0x003, 0x006, 0x007, 0x042, 0x080, 0x100, 0x101, 0x140, 0x144, 0x148, 0x14C, 0x186, 0x187, 0x188, 0x189, 0x18E,
    0x1C3, 0x1C6].contains off ||
  (decide (0x0A0 ≤ off) && decide (off < 0x0C0)) || (decide (0x118 ≤ off) && decide (off < 0x120)) ||
  (decide (0x240 ≤ off) && decide (off < 0x260)) || (decide (0x280 ≤ off) && decide (off < 0x2A3))
def ruledEng (off : Nat) : Bool :=
  [0x00, 0x02, 0x03, 0x05, 0x06, 0x22, 0x23, 0x24, 0x25, 0x26, 0x27].contains off || (decide (0x30 ≤ off) && decide (off < 0x3C))

/-- A register whose writes follow its table's access codes and nothing else (R16, R17). -/
def plainReg (a : Nat) : Bool :=
  if a < 0x0F01000 then !(ruledBlk (a - 0x0F00000))
  else if a < 0x0F18000 then !(ruledField (a % 0x1000))
  else if a < 0x0F21000 then !(ruledEng (a % 0x40))
  else decide (a % 0x10 ≠ 0)

/-! A syllable about to execute. -/

/-- Engine e stands at a syllable with the number `id`: its site, and the block as the syllable finds it. No slot is late, the
cell and its inline cells were fetched clean, no halt is due, and its routine runs as the ROM has it (R434, R437). -/
def atSyllable (b : Blk) (e id : Nat) : Option (Site × Blk) :=
  if b.md.off then none
  else
    match arrive e (overrunIfLate (fldOf e) b) with
    | .here s b1 =>
      if rowOf s.id = id ∧ micro b1 s.field (microEntry s) = .fine then
        match chkInline s b1 with
        | .ok b2 => some (s, b2)
        | _ => none
      else none
    | _ => none

/-- Nothing of the context is under way: no long operation of the engine in flight, no group of cells being spilled, no write of its
registers waiting for a boundary (R212); its caches hold no more than they can; and the hardware sequences run as the ROM has them
(R427, R434, R437). -/
structure Settled (s : Site) (b : Blk) : Prop where
  ctx : s.c < 5
  seqs : ∀ n q, micro { b with free := n } s.field (seqEntry q) = .fine
  lops : (engOf b s.e).lops = []
  ctxq : (engOf b s.e).ctxq = []
  dgrp : (s.ctx b).dgrp = 0
  rgrp : (s.ctx b).rgrp = 0
  data : (s.ctx b).data.length ≤ capData s.c
  ret : (s.ctx b).ret.length ≤ capRet s.c

/-- In state `st` engine e is about to execute the syllable with the number `id`, at site s; `b` is the block as the syllable
finds it, with nothing of the context under way. -/
def Poised (st : State) (e id : Nat) (s : Site) (b : Blk) : Prop := atSyllable st.blk e id = some (s, b) ∧ Settled s b

/-- The same, with no locked sequence open in the context. -/
def Meets (st : State) (e id : Nat) (s : Site) (b : Blk) : Prop := Poised st e id s b ∧ lockOf b s.e s.c = none

/-- A context but for what a syllable that works on its own stacks and flags may write: its place, PS, its stacks' caches and
its STATE. -/
def rest (y : Ctx) : Ctx := { y with pc := 0, sylb := false, ps := 0, data := [], ret := [], state := 0 }

/-- What of an engine such a syllable leaves alone: the float stack, the trap registers, the store buffer, long operations,
locked sequences, the slot of C0, the running context and the writes of its registers that wait. -/
def deep (x : Engine) : List SCell × BitVec 28 × BitVec 14 × BitVec 28 × BitVec 28 × List SBuf × List LOp × List LockSt × Option Nat ×
    Bool × Option Nat × List (Nat × BitVec 28 × Bool) :=
  (x.fst, x.tpc, x.tps, x.tinfo, x.dfpc, x.sbuf, x.lops, x.locks, x.slot, x.mchk, x.run, x.ctxq)

/-- A register that a syllable without an access, a trap or a spill leaves alone: all but those of the ledger, the event
controllers and the counters of errors, and the engine's debug status with the field's trace status (R539, R550). -/
def calmReg (e a : Nat) : Bool :=
  quietReg a && !([aE e 0x31, aE e 0x32, aE e 0x33, aF (fldOf e) 0x2A3, aF (fldOf e) 0x2A4].contains a)

/-- `t` is `b` after a syllable of site s that wrote at most its own context's place, PS and stacks' caches: memory (but for the
event controllers' own tables), every other register, context, engine, link, port and unit is as it was. -/
structure Kept (s : Site) (b t : Blk) : Prop where
  words : ∀ a, a < 0x220000 → rawWord t a = rawWord b a
  regs : ∀ a, calmReg s.e a = true → reg t a = reg b a
  mine : rest (ctxOf t s.e s.c) = rest (ctxOf b s.e s.c)
  state : (ctxOf t s.e s.c).state = (ctxOf b s.e s.c).state ∨
    ((ctxOf b s.e s.c).state = 2 ∧ (ctxOf t s.e s.c).state = 1)
  ctxs : ∀ i k, (i ≠ s.e ∨ k ≠ s.c) → Woken (ctxOf b i k) (ctxOf t i k)
  engs : ∀ i, deep (engOf t i) = deep (engOf b i)
  fields : ∀ f, pathOf (fieldOf t f) = pathOf (fieldOf b f)
  links : t.links = b.links
  tb : t.tb = b.tb
  latch : t.latch = b.latch
  stw : t.stw = b.stw
  host : t.host = b.host
  tap : t.tap = b.tap
  mc : t.mc = b.mc
  gov : t.gov = b.gov

/-- `c` is `b` after fetches and comparisons: whatever they count, correct and record, they leave every context, the engines'
registers and queues, the slots in the pipe and every unit outside the fields as they were. -/
structure Fetched (b c : Blk) : Prop where
  ctxs : ∀ i k, Woken (ctxOf b i k) (ctxOf c i k)
  engs : ∀ i, deep (engOf c i) = deep (engOf b i)
  fields : ∀ f, pathOf (fieldOf c f) = pathOf (fieldOf b f)
  cfg : c.cfg = b.cfg
  links : c.links = b.links
  tb : c.tb = b.tb
  latch : c.latch = b.latch
  stw : c.stw = b.stw
  host : c.host = b.host
  tap : c.tap = b.tap
  auth : c.auth = b.auth
  mc : c.mc = b.mc
  gov : c.gov = b.gov

/-- The context went on after its syllable: to syllable B of its cell, or to the cell that follows (R215, R218). -/
def WentOn (s : Site) (t : Blk) : Prop :=
  wid s.tw (ctxOf t s.e s.c).pc = (after s).1 ∧ (ctxOf t s.e s.c).sylb = (after s).2

/-- The command answered a next state, in which the syllable at site s, met in block b, has left the data stack `l`, the return
stack `r` and the flags `p`, the context went on, and all else is kept. -/
def Leaves (s : Site) (b : Blk) (l r : List SCell) (p : BitVec 14) (o : Host.Outcome State Fault Refusal) : Prop :=
  ∃ t, o = .next t ∧ (s.ctx t.blk).data = l ∧ (s.ctx t.blk).ret = r ∧ (s.ctx t.blk).ps = p ∧ WentOn s t.blk ∧ Kept s b t.blk

/-- The same, the return stack and the flags being as they were. -/
def LeavesData (s : Site) (b : Blk) (l : List SCell) (o : Host.Outcome State Fault Refusal) : Prop :=
  Leaves s b l (s.ctx b).ret (s.ctx b).ps o

/-- Block `c` has the same context running at the same place as `b`, with the same locked sequence and no write of its registers
waiting: what an access of the context's own syllable leaves alone. -/
structure Undisturbed (s : Site) (b c : Blk) : Prop where
  run : (engOf c s.e).run = (engOf b s.e).run
  lock : lockOf c s.e s.c = lockOf b s.e s.c
  pc : (s.ctx c).pc = (s.ctx b).pc
  ctxq : (engOf c s.e).ctxq = []

/-- The command answered a next state in which the context is as it is in block `b`, and all else is kept of it: what a syllable
that does not simply go on leaves, `b` saying where its context stands. -/
def Stays (s : Site) (b : Blk) (o : Host.Outcome State Fault Refusal) : Prop :=
  ∃ t, o = .next t ∧ Woken (s.ctx b) (s.ctx t.blk) ∧ Kept s b t.blk

/-- The command answered a next state in which control passed to `a`, with the data stack `l` and the return stack `r`, PS as it
was, and all else kept. -/
def Jumps (s : Site) (b : Blk) (l r : List SCell) (a : BitVec 28) (o : Host.Outcome State Fault Refusal) : Prop :=
  ∃ t, o = .next t ∧ (s.ctx t.blk).data = l ∧ (s.ctx t.blk).ret = r ∧ (s.ctx t.blk).ps = (s.ctx b).ps ∧
    (s.ctx t.blk).pc = s.addr a ∧ (s.ctx t.blk).sylb = false ∧ Kept s b t.blk

/-- `t` is `b` after the entry into FE that R205 describes, for the syllable named by a cell address and SYLB: TPC, TPS, TINFO
and TCAUSE are written, TRAPCNT counts, FE runs at its vector with empty stacks and FPA clear, and all else is as it was, the
interrupted context included. -/
structure TrapEntry (s : Site) (b : Blk) (cause : Nat) (info pc : BitVec 28) (sylb : Bool) (t : Blk) : Prop where
  tpc : (engOf t s.e).tpc = pc
  tps : (engOf t s.e).tps = psSettled b s.e s.c
  tinfo : (engOf t s.e).tinfo = wid s.tw info
  tcause : reg t (aE s.e 0x04) = BitVec.ofNat 14 (b2n sylb * 0x2000 + s.c * 0x400 + cause)
  trapcnt : (reg t (aE s.e 0x13)).toNat = min 16383 ((reg b (aE s.e 0x13)).toNat + 1)
  run : (engOf t s.e).run = some 4
  fe : still (ctxOf t s.e 4) = still { ctxOf b s.e 4 with
    data := [], ret := [], dgrp := 0, rgrp := 0, dsp := (ctxOf b s.e 4).dbase, rsp := (ctxOf b s.e 4).rbase,
    pc := vectorOf s b cause, sylb := false, ps := (ctxOf b s.e 4).ps &&& 0x37FF }
  ctxs : ∀ i k, (i ≠ s.e ∨ k ≠ 4) → Woken (ctxOf b i k) (ctxOf t i k)
  words : ∀ a, a < 0x220000 → rawWord t a = rawWord b a
  regs : ∀ a, calmReg s.e a = true → a ≠ aE s.e 0x04 → a ≠ aE s.e 0x13 → a ≠ aE s.e 0x10 → reg t a = reg b a
  fst : (engOf t s.e).fst = (engOf b s.e).fst
  sbuf : (engOf t s.e).sbuf = (engOf b s.e).sbuf
  lops : (engOf t s.e).lops = (engOf b s.e).lops
  locks : (engOf t s.e).locks = (engOf b s.e).locks
  slot : (engOf t s.e).slot = (engOf b s.e).slot
  mchk : (engOf t s.e).mchk = (engOf b s.e).mchk
  engs : ∀ i, i ≠ s.e → deep (engOf t i) = deep (engOf b i)
  fields : ∀ f, pathOf (fieldOf t f) = pathOf (fieldOf b f)
  links : t.links = b.links
  tb : t.tb = b.tb
  latch : t.latch = b.latch
  stw : t.stw = b.stw
  host : t.host = b.host
  tap : t.tap = b.tap
  mc : t.mc = b.mc
  gov : t.gov = b.gov

/-- The command answered a next state in which the trap with this cause and TINFO was taken from block `b`, naming the syllable
at a cell address and SYLB. -/
def Traps (s : Site) (b : Blk) (cause : Nat) (info pc : BitVec 28) (sylb : Bool) (o : Host.Outcome State Fault Refusal) : Prop :=
  ∃ t, o = .next t ∧ TrapEntry s b cause info pc sylb t.blk

/-- PS with some of its bits given. -/
def psWith (ps : BitVec 14) : List (Nat × Bool) → BitVec 14
  | [] => ps
  | (i, x) :: l => psWith (putb ps i x) l

end Sys2Proof.Machine
end

