-- ==== Sys2Proof/Certificates/Slice0/Obligations.lean ====
section
/-! DEFINITION. The statements for the provers. -/

open Sys2Proof Sys2Proof.Machine

/-! Syllables (chapters 7 and 8). In each, `st` is the state in which the command comes, s the site of the syllable and b the
block as the syllable finds it. -/

/-- R224: the stack syllables without an operand of their own rearrange the stacks as the table says, and write no flag. -/
def Obligations.StackSyllablesRearrange : Prop :=
  ∀ (st : State) (e : Nat) (s : Site) (b : Blk) (x y z : SCell) (l r : List SCell),
    (Meets st e 0x00 s b → LeavesData s b (s.ctx b).data (exec (.nop e) st)) ∧
    (Meets st e 0x01 s b → (s.ctx b).data = x :: l → l.length + 2 ≤ capData s.c → LeavesData s b (x :: x :: l) (exec (.dup e) st)) ∧
    (Meets st e 0x02 s b → (s.ctx b).data = x :: l → LeavesData s b l (exec (.drop e) st)) ∧
    (Meets st e 0x03 s b → (s.ctx b).data = y :: x :: l → LeavesData s b (x :: y :: l) (exec (.swap e) st)) ∧
    (Meets st e 0x04 s b → (s.ctx b).data = y :: x :: l → l.length + 3 ≤ capData s.c →
      LeavesData s b (x :: y :: x :: l) (exec (.overSyl e) st)) ∧
    (Meets st e 0x05 s b → (s.ctx b).data = z :: y :: x :: l → LeavesData s b (x :: z :: y :: l) (exec (.rot e) st)) ∧
    (Meets st e 0x06 s b → (s.ctx b).data = y :: x :: l → LeavesData s b (y :: l) (exec (.nip e) st)) ∧
    (Meets st e 0x07 s b → (s.ctx b).data = y :: x :: l → l.length + 3 ≤ capData s.c →
      LeavesData s b (y :: x :: y :: l) (exec (.tuck e) st)) ∧
    (Meets st e 0x08 s b → (s.ctx b).data = y :: x :: l → l.length + 4 ≤ capData s.c →
      LeavesData s b (y :: x :: y :: x :: l) (exec (.dup2 e) st)) ∧
    (Meets st e 0x09 s b → (s.ctx b).data = y :: x :: l → LeavesData s b l (exec (.drop2 e) st)) ∧
    (Meets st e 0x0A s b → (s.ctx b).data = x :: l → (s.ctx b).ret.length + 1 ≤ capRet s.c →
      Leaves s b l (x :: (s.ctx b).ret) (s.ctx b).ps (exec (.tor e) st)) ∧
    (Meets st e 0x0B s b → (s.ctx b).ret = x :: r → (s.ctx b).data.length + 1 ≤ capData s.c →
      Leaves s b (x :: (s.ctx b).data) r (s.ctx b).ps (exec (.fromr e) st)) ∧
    (Meets st e 0x0C s b → (s.ctx b).ret = x :: r → (s.ctx b).data.length + 1 ≤ capData s.c →
      LeavesData s b (x :: (s.ctx b).data) (exec (.rfetch e) st)) ∧
    (Meets st e 0x0F s b → (s.ctx b).ret = x :: r → Leaves s b (s.ctx b).data r (s.ctx b).ps (exec (.rdrop e) st))

/-- R216, R224, R241: the literals push their values clean, DEPTH the number of cells of the stack, and PICK a copy of a cell that
is cached. -/
def Obligations.LiteralsDepthAndPickPush : Prop :=
  ∀ (st : State) (e : Nat) (s : Site) (b : Blk) (x : SCell) (l : List SCell), (s.ctx b).data.length + 1 ≤ capData s.c →
    (Meets st e 0x60 s b → LeavesData s b (sc (ofInt s.tw ((s.code : Int) - 0x64)) :: (s.ctx b).data) (exec (.smallLiteral e) st)) ∧
    (Meets st e 0x70 s b → LeavesData s b (sc (inlineVal s 0) :: (s.ctx b).data) (exec (.lit e) st)) ∧
    (Meets st e 0x71 s b → (s.ctx b).data.length + 2 ≤ capData s.c →
      LeavesData s b (sc (inlineVal s 1) :: sc (inlineVal s 0) :: (s.ctx b).data) (exec (.lit2 e) st)) ∧
    (Meets st e 0x0E s b → LeavesData s b (sc (wid s.tw (BitVec.ofNat 28 (s.ctx b).data.length +
      (if s.c = 4 then 0 else (s.ctx b).dsp - (s.ctx b).dbase))) :: (s.ctx b).data) (exec (.depth e) st)) ∧
    (Meets st e 0x0D s b → (s.ctx b).data = x :: l → x.p = false → ∀ h : uval s.tw x.v < l.length,
      (l[uval s.tw x.v]).pend = false → LeavesData s b (l[uval s.tw x.v] :: l) (exec (.pick e) st))

/-- R225, R257, R258, R184, R202: ADD, SUB, ADC and SBC (x is a, y is b) leave the sum or difference modulo the width, C the
carry or borrow, V the overflow, PF and P where an input, or a C read under PF, is poisoned; unless V would be set with TV. -/
def Obligations.SumsAndDifferences : Prop :=
  ∀ (st : State) (e : Nat) (s : Site) (b : Blk) (x y : SCell) (l : List SCell), (s.ctx b).data = y :: x :: l →
    let w := s.tw
    let c : Nat := b2n (psC (s.ctx b))
    let p := x.p || y.p
    let q := p || psPF (s.ctx b)
    let sum : Int := sval w x.v + sval w y.v
    let dif : Int := sval w x.v - sval w y.v
    let ok (n : Int) : Prop := inRange w n = true ∨ psTV (s.ctx b) = false
    let leaves (n : Int) (carry p : Bool) := Leaves s b (scP (ofInt w n) p :: l) (s.ctx b).ret
      (psWith (s.ctx b).ps [(1, carry), (2, !(inRange w n)), (5, p)])
    (Meets st e 0x10 s b → ok sum → leaves sum (decide (umod w ≤ uval w x.v + uval w y.v)) p (exec (.add e) st)) ∧
    (Meets st e 0x11 s b → ok dif → leaves dif (decide (uval w x.v < uval w y.v)) p (exec (.sub e) st)) ∧
    (Meets st e 0x12 s b → ok (sum + c) → leaves (sum + c) (decide (umod w ≤ uval w x.v + uval w y.v + c)) q (exec (.adc e) st)) ∧
    (Meets st e 0x13 s b → ok (dif - c) → leaves (dif - c) (decide (uval w x.v < uval w y.v + c)) q (exec (.sbc e) st))

/-- R225, R257, R258: the syllables that write V alone leave the exact result modulo the width (clamped to the signed range for
SATADD and SATSUB), with V set where the exact result is out of range; unless V would be set with TV. -/
def Obligations.OverflowSyllables : Prop :=
  ∀ (st : State) (e : Nat) (s : Site) (b : Blk) (x y : SCell) (l : List SCell),
    let w := s.tw
    let ok (n : Int) : Prop := inRange w n = true ∨ psTV (s.ctx b) = false
    let leaves (r n : Int) (p : Bool) := Leaves s b (scP (ofInt w r) p :: l) (s.ctx b).ret
      (psWith (s.ctx b).ps [(2, !(inRange w n)), (5, p)])
    ((s.ctx b).data = x :: l →
      (Meets st e 0x18 s b → ok (-(sval w x.v)) → leaves (-(sval w x.v)) (-(sval w x.v)) x.p (exec (.neg e) st)) ∧
      (Meets st e 0x19 s b → ok (sval w x.v + 1) → leaves (sval w x.v + 1) (sval w x.v + 1) x.p (exec (.inc e) st)) ∧
      (Meets st e 0x1A s b → ok (sval w x.v - 1) → leaves (sval w x.v - 1) (sval w x.v - 1) x.p (exec (.dec e) st)) ∧
      (Meets st e 0x29 s b → ok ((sval w x.v).natAbs : Int) →
        leaves ((sval w x.v).natAbs : Int) ((sval w x.v).natAbs : Int) x.p (exec (.abs e) st))) ∧
    ((s.ctx b).data = y :: x :: l →
      (Meets st e 0x2A s b → ok (sval w x.v + sval w y.v) →
        leaves (max (smin w) (min (smax w) (sval w x.v + sval w y.v))) (sval w x.v + sval w y.v) (x.p || y.p) (exec (.satadd e) st)) ∧
      (Meets st e 0x2B s b → ok (sval w x.v - sval w y.v) →
        leaves (max (smin w) (min (smax w) (sval w x.v - sval w y.v))) (sval w x.v - sval w y.v) (x.p || y.p) (exec (.satsub e) st)) ∧
      (Meets st e 0x2E s b → ok (sval w x.v * sval w y.v) →
        leaves (sval w x.v * sval w y.v) (sval w x.v * sval w y.v) (x.p || y.p) (exec (.mullo e) st)))

/-- R225, R226: the shifts leave a shifted by n places, with C the last bit shifted out; the rotates leave a rotated by n modulo
the width, and no flag. -/
def Obligations.ShiftsAndRotates : Prop :=
  ∀ (st : State) (e : Nat) (s : Site) (b : Blk) (x y : SCell) (l : List SCell),
    let w := s.tw
    let k := wbits w
    let left (v : BitVec 28) (n : Nat) : Int := if n < k then (uval w v * 2 ^ n : Nat) else 0
    let right (v : BitVec 28) (n : Nat) : Int := if n < k then (uval w v / 2 ^ n : Nat) else 0
    let signed (v : BitVec 28) (n : Nat) : Int := if n < k then sval w v / (2 ^ n : Nat) else if sval w v < 0 then -1 else 0
    let leaves (r : Int) (carry p : Bool) := Leaves s b (scP (ofInt w r) p :: l) (s.ctx b).ret
      (psWith (s.ctx b).ps [(1, carry), (5, p)])
    ((s.ctx b).data = y :: x :: l →
      let n := uval w y.v
      let p := x.p || y.p
      (Meets st e 0x1B s b → leaves (left x.v n) (decide (1 ≤ n ∧ n ≤ k) && bit x.v (k - n)) p (exec (.shl e) st)) ∧
      (Meets st e 0x1C s b → leaves (right x.v n) (decide (1 ≤ n ∧ n ≤ k) && bit x.v (n - 1)) p (exec (.shr e) st)) ∧
      (Meets st e 0x1D s b → leaves (signed x.v n)
        (if n < k then decide (1 ≤ n) && bit x.v (n - 1) else decide (sval w x.v < 0)) p (exec (.sar e) st)) ∧
      (Meets st e 0x1E s b → LeavesData s b (scP (ofNatW w (uval w x.v * 2 ^ (n % k) + uval w x.v / 2 ^ (k - n % k))) p :: l)
        (exec (.rol e) st)) ∧
      (Meets st e 0x1F s b → LeavesData s b (scP (ofNatW w (uval w x.v * 2 ^ (k - n % k) + uval w x.v / 2 ^ (n % k))) p :: l)
        (exec (.ror e) st))) ∧
    ((s.ctx b).data = x :: l →
      (Meets st e 0x20 s b → leaves (left x.v 1) (bit x.v (k - 1)) x.p (exec (.shl1 e) st)) ∧
      (Meets st e 0x21 s b → leaves (right x.v 1) (bit x.v 0) x.p (exec (.shr1 e) st)))

/-- R225: the logical operations, the comparisons (1 for true, 0 for false), MIN, MAX, CLZ, POPC and SEXT7 leave the table's
result, and no flag. -/
def Obligations.LogicAndComparisons : Prop :=
  ∀ (st : State) (e : Nat) (s : Site) (b : Blk) (x y : SCell) (l : List SCell),
    let w := s.tw
    let one (v : BitVec 28) := LeavesData s b (scP (wid w v) x.p :: l)
    let two (v : BitVec 28) := LeavesData s b (scP (wid w v) (x.p || y.p) :: l)
    ((s.ctx b).data = y :: x :: l →
      (Meets st e 0x14 s b → two (x.v &&& y.v) (exec (.and e) st)) ∧
      (Meets st e 0x15 s b → two (x.v ||| y.v) (exec (.or e) st)) ∧
      (Meets st e 0x16 s b → two (x.v ^^^ y.v) (exec (.xor e) st)) ∧
      (Meets st e 0x22 s b → two (if uval w x.v = uval w y.v then 1 else 0) (exec (.eq e) st)) ∧
      (Meets st e 0x23 s b → two (if sval w x.v < sval w y.v then 1 else 0) (exec (.lt e) st)) ∧
      (Meets st e 0x24 s b → two (if uval w x.v < uval w y.v then 1 else 0) (exec (.ult e) st)) ∧
      (Meets st e 0x25 s b → two (if sval w x.v > sval w y.v then 1 else 0) (exec (.gt e) st)) ∧
      (Meets st e 0x27 s b → two (if sval w y.v < sval w x.v then y.v else x.v) (exec (.min e) st)) ∧
      (Meets st e 0x28 s b → two (if sval w x.v ≤ sval w y.v then y.v else x.v) (exec (.max e) st))) ∧
    ((s.ctx b).data = x :: l →
      (Meets st e 0x17 s b → one (~~~x.v) (exec (.not e) st)) ∧
      (Meets st e 0x26 s b → one (if uval w x.v = 0 then 1 else 0) (exec (.zeq e) st)) ∧
      (Meets st e 0x2C s b → one (BitVec.ofNat 28 (wbits w - bitlen (uval w x.v))) (exec (.clz e) st)) ∧
      (Meets st e 0x2D s b → one (BitVec.ofNat 28 (ones (wid w x.v))) (exec (.popc e) st)) ∧
      (Meets st e 0x2F s b → one ((x.v.extractLsb' 0 7).signExtend 28) (exec (.sext7 e) st)))

/-- R204, R246, R252, R253: PTEST, PCLR (which in C0 also clears SPOIS), COMPAND, EXPAND, CRCSTEP, BITREV and PARITY. -/
def Obligations.ExtendedCellOperations : Prop :=
  ∀ (st : State) (e : Nat) (s : Site) (b : Blk) (x y z : SCell) (l : List SCell),
    ((s.ctx b).data = x :: l →
      (Meets st e 0x98 s b → l.length + 2 ≤ capData s.c →
        LeavesData s b (sc (if x.p then 1 else 0) :: x :: l) (exec (.ptest e) st)) ∧
      (Meets st e 0x99 s b → s.c ≠ 0 → LeavesData s b (sc x.v :: l) (exec (.pclr e) st)) ∧
      (Meets st e 0x99 s b → s.c = 0 →
        LeavesData s (onCtx s.e 0 (fun y => { y with spois := false }) b) (sc x.v :: l) (exec (.pclr e) st)) ∧
      (Meets st e 0xA0 s b → LeavesData s b (scP (wid s.tw (BitVec.ofNat 28 (compandOf (lo14 x.v).toNat))) x.p :: l)
        (exec (.compand e) st)) ∧
      (Meets st e 0xA1 s b → LeavesData s b (scP (wid s.tw (BitVec.ofNat 28 (expandOf (fld x.v 0 10)))) x.p :: l)
        (exec (.expand e) st)) ∧
      (Meets st e 0xA3 s b → LeavesData s b (scP (wid s.tw (bitrev s.tw x.v)) x.p :: l) (exec (.bitrev e) st)) ∧
      (Meets st e 0xA4 s b → LeavesData s b (scP (wid s.tw (if oddOnes (wid s.tw x.v) then 1 else 0)) x.p :: l)
        (exec (.parity e) st))) ∧
    ((s.ctx b).data = x :: y :: z :: l → Meets st e 0xA2 s b →
      LeavesData s b (scP ((crcStep (lo14 z.v) (lo14 y.v) (lo14 x.v)).setWidth 28) (z.p || y.p || x.p) :: l)
        (exec (.crcstep e) st))

/-- R227, R228: a load pushes the cell that a read at its address delivers, being ready (permitted, nothing to wait for), with P;
LDI also the next address, LDP the two cells, LDV the cell at b + i, LDC a cell of the own code store; PREF pushes nothing. -/
def Obligations.LoadsPushWhatTheyRead : Prop :=
  ∀ (st : State) (e : Nat) (s : Site) (b : Blk) (x y : SCell) (l : List SCell),
    let after (r : Blk) (o : List SCell) (n : Nat) (out : Host.Outcome State Fault Refusal) : Prop :=
      Undisturbed s b r → Leaves s r (o ++ (s.ctx r).data.drop n) (s.ctx r).ret (s.ctx r).ps out
    let one (a : BitVec 28) : SCell × Blk := readCell s false a b
    ((s.ctx b).data = x :: l → x.p = false →
      let a := s.addr x.v
      (Meets st e 0x30 s b → readyRead s false [a] b = .ok b → after (one a).2 [(one a).1] 1 (exec (.ld e) st)) ∧
      (Meets st e 0x32 s b → readyRead s false [a] b = .ok b → l.length + 2 ≤ capData s.c →
        after (one a).2 [sc (s.off a s.words), (one a).1] 1 (exec (.ldi e) st)) ∧
      (Meets st e 0x34 s b → readyRead s true [a, s.off a s.words] b = .ok b → l.length + 2 ≤ capData s.c →
        after (readTwo s a b).2.2 [(readTwo s a b).2.1, (readTwo s a b).1] 1 (exec (.ldp e) st)) ∧
      (Meets st e 0x38 s b →
        let r := readWord s (codeAddr s b x.v) b
        after (watch s false false [(codeAddr s b x.v, r.1)] r.2) [scP (r.1.v.setWidth 28) r.1.p] 1 (exec (.ldc e) st)) ∧
      (Meets st e 0x3F s b →
        let ws := cellWords s b a
        let ok := ws.all (fun w => isOwnMem s.field w && permits (permOf b s.field (w % 0x10000) (locOf s.e)) 0)
        (ok = false → LeavesData s b l (exec (.pref e) st)) ∧
        (ok = true → ws.any (heldByOther b s.e) = false →
          after (each (fun w b => (busRead s.master w b).2.2) ws b) [] 1 (exec (.pref e) st)))) ∧
    ((s.ctx b).data = y :: x :: l → x.p = false → y.p = false →
      let a := s.addr (x.v + BitVec.ofNat 28 s.words * y.v)
      Meets st e 0x36 s b → readyRead s false [a] b = .ok b → after (one a).2 [(one a).1] 2 (exec (.ldv e) st))

/-- R227, R228, R301: a store pops its operands and puts the cell, with its P, into the store buffer for its address, being
ready; STI leaves the next address, STP stores two cells, STC stores into the own code store. -/
def Obligations.StoresBufferTheirCells : Prop :=
  ∀ (st : State) (e : Nat) (s : Site) (b : Blk) (x y z : SCell) (l : List SCell),
    let leaves (d : Blk) (o : List SCell) : Host.Outcome State Fault Refusal → Prop :=
      Leaves s d (o ++ l) (s.ctx b).ret (s.ctx b).ps
    let a := s.addr x.v
    x.p = false →
    ((s.ctx b).data = x :: y :: l →
      (Meets st e 0x31 s b → readyStore s [(a, y.p)] b = .ok b → leaves (storeCell s false a y (putData s 2 [] b)) [] (exec (.st e) st)) ∧
      (Meets st e 0x33 s b → readyStore s [(a, y.p)] b = .ok b →
        leaves (storeCell s false a y (putData s 2 [sc (s.off a s.words)] b)) [sc (s.off a s.words)] (exec (.sti e) st)) ∧
      (Meets st e 0x39 s b → s.kern = true → roomFor s.e 1 b = .ok b →
        let w := (codeAddr s b x.v, { v := lo14 y.v, p := y.p : BCell })
        leaves (watch s true false [w] (putStore s [w] (putData s 2 [] b))) [] (exec (.stc e) st))) ∧
    ((s.ctx b).data = x :: y :: z :: l → Meets st e 0x35 s b → readyStore s [(a, z.p), (s.off a s.words, y.p)] b = .ok b →
      leaves (storeTwo s a z y (putData s 3 [] b)) [] (exec (.stp e) st))

/-- R227, R229, R230: PLUSST, BITSET and BITCLR store the cell at a changed; XCHG stores x and pushes the old content; CAS stores w
and pushes 1 where the content is e and clean and its sequence is not broken, else it pushes 0, and ends the sequence; LOCK opens a
sequence over its range, broken where n or an address is outside what R230 allows. Each being ready. -/
def Obligations.ReadAndWriteOfOneCell : Prop :=
  ∀ (st : State) (e : Nat) (s : Site) (b : Blk) (x n w : SCell) (l : List SCell), x.p = false →
    let a := s.addr x.v
    let r := readCell s false a b
    let both (p : Bool) : Prop := ready s false [{ kind := 2, ea := a, p := p }] b = .ok b
    let changed (v : BitVec 28) (out : Host.Outcome State Fault Refusal) : Prop :=
      let d := storeCell s false a (scP (wid s.tw v) (n.p || r.1.p)) (putData s 2 [] r.2)
      both n.p → bitesStore s b a (n.p || r.1.p) = false →
        Undisturbed s b d → Leaves s d (s.ctx d).data (s.ctx d).ret (s.ctx d).ps out
    let m := (1 : BitVec 28) <<< fld n.v 0 4
    let nop : Prop := 14 ≤ fld n.v 0 4
    ((s.ctx b).data = x :: n :: l →
      (Meets st e 0x37 s b → changed (r.1.v + n.v) (exec (.plusst e) st)) ∧
      (Meets st e 0x3A s b → (¬nop → changed (r.1.v ||| m) (exec (.bitset e) st)) ∧ (nop → changed r.1.v (exec (.bitset e) st))) ∧
      (Meets st e 0x3B s b → (¬nop → changed (r.1.v &&& ~~~m) (exec (.bitclr e) st)) ∧ (nop → changed r.1.v (exec (.bitclr e) st))) ∧
      (Meets st e 0x3C s b → both n.p →
        let d := storeNow s a n (putData s 2 [r.1] r.2)
        Undisturbed s b d → Leaves s d (s.ctx d).data (s.ctx d).ret (s.ctx d).ps (exec (.xchg e) st))) ∧
    ((s.ctx b).data = x :: n :: w :: l → Poised st e 0x3E s b → both false →
      let broken := (lockOf b s.e s.c).any (fun k => k.broken)
      let hit := !broken && !r.1.p && decide (r.1.v = n.v)
      (hit = true → bitesStore s b a w.p = false) →
        let d0 := putData s 3 [scP (if hit then 1 else 0) (n.p || w.p || (!broken && r.1.p))] r.2
        let d := endLock s.e s.c (if hit then storeNow s a w d0 else d0)
        (engOf d s.e).run = (engOf b s.e).run → (s.ctx d).pc = (s.ctx b).pc →
          Leaves s d (s.ctx d).data (s.ctx d).ret (s.ctx d).ps (exec (.cas e) st)) ∧
    ((s.ctx b).data = x :: n :: l → n.p = false → Meets st e 0x3D s b → s.c ≠ 4 →
      let k := uval s.tw x.v
      let as := (List.range k).map (fun i => resolve s b (s.off (s.addr n.v) i))
      let broken := decide (k < 1 ∨ 8 < k) || !(as.all (isOwnMem s.field))
      (broken = true ∨ as.any (heldByOther b s.e) = false) →
        LeavesData s (onEng s.e (fun z => { z with
          locks := z.locks ++ [{ ctx := s.c, addrs := as, n := k, stored := 0, syls := 0, broken := broken }] }) b) l
          (exec (.lock e) st))

/-- R209, R247, R248: LDM loads the cell of the lowest mask bit left below its operands, STM stores the cell nearest a at the
address of the highest; the mask left is the progress, and the last cell removes the operands. Software wrote no progress. -/
def Obligations.MaskedBlockTransfers : Prop :=
  ∀ (st : State) (e : Nat) (s : Site) (b : Blk) (m a x : SCell) (l : List SCell), m.p = false → a.p = false →
    (s.ctx b).mfree = false →
    let left := (if (s.ctx b).mip then (s.ctx b).mprog.toNat else fld m.v 0 14) % 0x4000
    ((s.ctx b).data = m :: a :: l → left = 0 →
      (Meets st e 128 s b → LeavesData s (opDone s b) l (exec (.ldm e) st)) ∧
      (Meets st e 129 s b → LeavesData s (opDone s b) l (exec (.stm e) st))) ∧
    ((s.ctx b).data = m :: a :: l → 0 < left → Meets st e 128 s b → l.length + 3 ≤ capData s.c →
      let at_ := s.off (s.addr a.v) (lowBit left * s.words)
      let r := readCell s false at_ b
      let d := putData s 2 (if left = 2 ^ lowBit left then [r.1] else [m, a, r.1]) r.2
      readyRead s false [at_] b = .ok b → Undisturbed s b d →
        (left = 2 ^ lowBit left → Leaves s (opDone s d) (s.ctx d).data (s.ctx d).ret (s.ctx d).ps (exec (.ldm e) st)) ∧
        (left ≠ 2 ^ lowBit left → Stays s (opPart s (left - 2 ^ lowBit left) d) (exec (.ldm e) st))) ∧
    ((s.ctx b).data = m :: a :: x :: l → 0 < left → popc14 left ≤ l.length + 1 → Meets st e 129 s b →
      let at_ := s.off (s.addr a.v) (highBit left * s.words)
      let d := putData s 3 (if left = 2 ^ highBit left then [] else [m, a]) (storeCell s false at_ x b)
      readyStore s [(at_, x.p)] b = .ok b →
        (left = 2 ^ highBit left → LeavesData s (opDone s d) l (exec (.stm e) st)) ∧
        (left ≠ 2 ^ highBit left → Stays s (opPart s (left - 2 ^ highBit left) d) (exec (.stm e) st)))

/-- R209, R249, R250, R272: MOVB copies cell i, DSADD and DSSUB replace cell i of d by the digit result with C and DV, or by the
marker with DV from the first invalid cell on; the count of cells is the progress, and the last cell removes the operands. -/
def Obligations.StringOperationsByCell : Prop :=
  ∀ (st : State) (e : Nat) (s : Site) (b : Blk) (len dst src : SCell) (l : List SCell),
    (s.ctx b).data = len :: dst :: src :: l → len.p = false → dst.p = false → src.p = false → (s.ctx b).mfree = false →
    let y := s.ctx b
    let n := uval s.tw len.v
    let i := if y.mip then y.mprog.toNat else 0
    let sa := s.off (s.addr src.v) (i * s.words)
    let da := s.off (s.addr dst.v) (i * s.words)
    let one (d : Blk) (out : Host.Outcome State Fault Refusal) : Prop :=
      Undisturbed s b d →
        (n ≤ i + 1 → Leaves s (opDone s d) ((s.ctx d).data.drop 3) (s.ctx d).ret (s.ctx d).ps out) ∧
        (i + 1 < n → Stays s (opPart s (i + 1) d) out)
    (n ≤ i →
      (Meets st e 130 s b → LeavesData s (opDone s b) l (exec (.movb e) st)) ∧
      (Meets st e 131 s b → LeavesData s (opDone s b) l (exec (.dsadd e) st)) ∧
      (Meets st e 132 s b → LeavesData s (opDone s b) l (exec (.dssub e) st))) ∧
    let reads : Access := { kind := 0, ea := sa, p := false }
    let writes : Access := { kind := 1, ea := da, p := false }
    (i < n →
      (Meets st e 130 s b → ready s false [reads, writes] b = .ok b →
        let r := readCell s false sa b
        bitesStore s b da r.1.p = false → one (storeCell s false da r.1 r.2) (exec (.movb e) st)) ∧
      (ready s false [reads, { reads with ea := da }, writes] b = .ok b →
        let u := readCell s false sa b
        let v := readCell s false da u.2
        let p := u.1.p || v.1.p || psPF y
        let marked := psDV y && !(decide (i = 0) && !y.mip)
        let write (r : Option (BitVec 28 × Bool)) : Blk :=
          let ps := psWith (s.ctx v.2).ps [(4, r.isNone), (1, r.any (fun q => q.2)), (5, p)]
          storeCell s false da (scP ((r.map (fun q => q.1)).getD (decMarker s.tw)) p) (onCtx s.e s.c (fun z => { z with ps := ps }) v.2)
        let add := if marked then none else decimal s.tw false v.1.v u.1.v (b2n (psC y))
        let sub := if marked then none else decimal s.tw true v.1.v u.1.v (b2n (psC y))
        bitesStore s b da p = false →
        (Meets st e 131 s b → (add.isSome = true ∨ psTD y = false) → one (write add) (exec (.dsadd e) st)) ∧
        (Meets st e 132 s b → (sub.isSome = true ∨ psTD y = false) → one (write sub) (exec (.dssub e) st))))

/-! Control (chapter 7), traps and returns (chapters 6 and 11). -/

/-- R219, R236: BR and SBR transfer control always, BZ and SBZ where the tested cell is 0, BNZ and SBNZ where it is not; else
the context goes on. A short target is the cell after the branch plus the signed offset. -/
def Obligations.BranchesTakenAndNotTaken : Prop :=
  ∀ (st : State) (e : Nat) (s : Site) (b : Blk) (x : SCell) (l : List SCell),
    let r := (s.ctx b).ret
    let long := inlineVal s 0
    let short := s.pc + 1 + (BitVec.ofNat 7 s.partner).signExtend 28
    let zero := uval s.tw x.v = 0
    (Meets st e 0x40 s b → Jumps s b (s.ctx b).data r long (exec (.br e) st)) ∧
    (Meets st e 0x48 s b → Jumps s b (s.ctx b).data r short (exec (.sbr e) st)) ∧
    ((s.ctx b).data = x :: l → x.p = false →
      (Meets st e 0x41 s b → (zero → Jumps s b l r long (exec (.bz e) st)) ∧ (¬zero → LeavesData s b l (exec (.bz e) st))) ∧
      (Meets st e 0x42 s b → (¬zero → Jumps s b l r long (exec (.bnz e) st)) ∧ (zero → LeavesData s b l (exec (.bnz e) st))) ∧
      (Meets st e 0x49 s b → (zero → Jumps s b l r short (exec (.sbz e) st)) ∧ (¬zero → LeavesData s b l (exec (.sbz e) st))) ∧
      (Meets st e 0x4A s b → (¬zero → Jumps s b l r short (exec (.sbnz e) st)) ∧ (zero → LeavesData s b l (exec (.sbnz e) st))))

/-- R236, R237: CALL and CALLS push the return address, RET and JMPS transfer to a popped one, and LOOP counts its cell down
and jumps to the target below it until the count is 0. -/
def Obligations.CallsReturnsAndLoops : Prop :=
  ∀ (st : State) (e : Nat) (s : Site) (b : Blk) (x t : SCell) (l r : List SCell),
    let d := (s.ctx b).data
    let room : Prop := (s.ctx b).ret.length + 1 ≤ capRet s.c
    (Meets st e 0x43 s b → room → Jumps s b d (sc s.next :: (s.ctx b).ret) (inlineVal s 0) (exec (.call e) st)) ∧
    (Meets st e 0x46 s b → room → d = x :: l → x.p = false →
      Jumps s b l (sc (s.off s.pc 1) :: (s.ctx b).ret) x.v (exec (.calls e) st)) ∧
    (Meets st e 0x45 s b → d = x :: l → x.p = false → Jumps s b l (s.ctx b).ret x.v (exec (.jmps e) st)) ∧
    (Meets st e 0x44 s b → (s.ctx b).ret = x :: r → x.p = false → Jumps s b d r x.v (exec (.ret e) st)) ∧
    (Meets st e 0x47 s b → (s.ctx b).ret = x :: t :: r → x.p = false →
      let c := wid s.tw (x.v - 1)
      (c = 0 → Leaves s b d r (s.ctx b).ps (exec (.loop e) st)) ∧
      (c ≠ 0 → t.p = false → Jumps s b d (sc c :: t :: r) t.v (exec (.loop e) st)))

/-- R205, R238, R251: YIELD ends the turn of C1 to C3, SLEEP puts the context to sleep and HALT sets RUN to 0, each with the context
standing after it; SLOTEND, every earlier write having drained, settles the slot of C0 and makes it IDLE. Each ends a sequence. -/
def Obligations.TurnsSleepHaltAndSlotEnd : Prop :=
  ∀ (st : State) (e : Nat) (s : Site) (b : Blk), (engOf b s.e).stepping = false →
    let at_ (b : Blk) : Blk := onCtx s.e s.c (fun y => { y with pc := (after s).1, sylb := (after s).2 }) b
    let free (b : Blk) : Blk := onEng s.e (fun x => { x with locks := x.locks.filter (fun k => decide (k.ctx ≠ s.c)) }) b
    let idle (b : Blk) : Blk := onEng s.e (fun x => { x with run := none }) b
    (Poised st e 0x4E s b → LeavesData s (free b) (s.ctx b).data (exec (.yield e) st) ∧
      (1 ≤ s.c → s.c ≤ 3 → ∃ t, exec (.yield e) st = .next t ∧ (engOf t.blk s.e).turnOver = true)) ∧
    (Poised st e 0x4D s b → 1 ≤ s.c → s.c ≤ 3 →
      Stays s (idle (onCtx s.e s.c (fun y => { y with state := 2 }) (at_ (free b)))) (exec (.sleep e) st)) ∧
    (Poised st e 0x4F s b → s.kern = true → Stays s (clrReg (aE s.e 0x00) 0x800 (at_ (free b))) (exec (.halt e) st)) ∧
    (Poised st e 154 s b → s.c = 0 → (engOf b s.e).sbuf = [] → ∀ (q : Nat) (r : SlotRec), (engOf b s.e).slot = some q →
      recOf (free b) s.field q = some r →
        let d := settleEnd s.field r (s.ctx b).spois (free b)
        Stays s (onEng s.e (fun x => { x with slot := none }) (onCtx s.e 0 (fun y => { y with state := 0 }) (at_ (idle d))))
          (exec (.slotend e) st))

/-- R205, R254, R540: TRAP takes cause 18 with its operand as TINFO, naming the syllable that follows; DBGBRK with BRKEN = 0 takes
cause 19, and with BRKEN = 1 goes on with a halt requested; an illegal syllable takes cause 3. None in FE. -/
def Obligations.TrapSyllablesEnterFe : Prop :=
  ∀ (st : State) (e : Nat) (s : Site) (b : Blk) (x : SCell) (l : List SCell), s.c ≠ 4 →
    let stands (b : Blk) : Blk := onCtx s.e s.c (fun y => { y with pc := (after s).1, sylb := (after s).2 }) b
    (Meets st e 0x4C s b → (s.ctx b).data = x :: l → x.p = false →
      Traps s (stands (putData s 1 [] b)) 18 x.v (after s).1 (after s).2 (exec (.trap e) st)) ∧
    (Meets st e 0x7C s b → bit (reg b (aE s.e 0x30)) 5 = false → Traps s b 19 0 s.pc s.second (exec (.dbgbrk e) st)) ∧
    (Meets st e 0x7C s b → bit (reg b (aE s.e 0x30)) 5 = true → LeavesData s b (s.ctx b).data (exec (.dbgbrk e) st) ∧
      ((engOf b s.e).stepping = false → ∃ t, exec (.dbgbrk e) st = .next t ∧ (engOf t.blk s.e).haltReq.isSome = true)) ∧
    (Meets st e 0x7F s b → Traps s b 3 (if cellIllegal s.cell then s.cell.setWidth 28 else BitVec.ofNat 28 s.code) s.pc s.second
      (exec (.illegal e) st))

/-- R202, R203, R205, R206: a syllable that meets a trap condition leaves its operands and enters FE with the cause and TINFO of the
table: overflow with TV, a poisoned branch condition or target, HALT and CTXRD at user level, an operand that no cell supplies,
division by zero with TZ, an invalid digit with TD, a float syllable without FPA. -/
def Obligations.TrapConditionsOfSyllables : Prop :=
  ∀ (st : State) (e : Nat) (s : Site) (b : Blk) (x y : SCell) (l : List SCell), s.c ≠ 4 →
    let traps (k : Nat) (i : BitVec 28) := Traps s b k i s.pc s.second
    let w := s.tw
    ((s.ctx b).data = y :: x :: l →
      (Meets st e 0x10 s b → inRange w (sval w x.v + sval w y.v) = false → psTV (s.ctx b) = true → traps 15 0 (exec (.add e) st)) ∧
      (Meets st e 0x52 s b → uval w y.v = 0 → psTZ (s.ctx b) = true → traps 16 x.v (exec (.div e) st)) ∧
      (Meets st e 0x54 s b → (decimal w false x.v y.v (b2n (psC (s.ctx b)))).isNone = true → psTD (s.ctx b) = true →
        traps 17 0 (exec (.dadd e) st))) ∧
    ((s.ctx b).data = y :: l → y.p = true →
      (Meets st e 0x41 s b → traps 5 4 (exec (.bz e) st)) ∧ (Meets st e 0x45 s b → traps 5 5 (exec (.jmps e) st))) ∧
    (s.kern = false → (s.ctx b).data = y :: x :: l →
      (Meets st e 0x4F s b → traps 4 (BitVec.ofNat 28 s.code) (exec (.halt e) st)) ∧
      (Meets st e 146 s b → traps 4 (BitVec.ofNat 28 s.code) (exec (.ctxrd e) st))) ∧
    ((s.ctx b).data = [] → (s.ctx b).dsp = (s.ctx b).dbase → Meets st e 0x02 s b → traps 6 (s.ctx b).dbase (exec (.drop e) st)) ∧
    (Meets st e 0x79 s b → psFPA (s.ctx b) = false → traps 12 (BitVec.ofNat 28 (fld (reg b (aE s.e 0x00)) 8 3)) (exec (.fdup e) st))

/-- R207: a trap condition met in FE stops the engine with a machine check of cause 4, with the trap's cause in MCTRAP and the
syllable's cell in DFPC, FE's stacks emptied, and MCSTAT written where it held nothing; the trap registers stay. -/
def Obligations.DoubleFaultStopsTheEngine : Prop :=
  ∀ (st : State) (e : Nat) (s : Site) (b : Blk), s.c = 4 → bit (reg b (aB 0x200)) 13 = false →
    let stops (k : Nat) (o : Host.Outcome State Fault Refusal) : Prop :=
      ∃ t, o = .next t ∧ (engOf t.blk s.e).mchk = true ∧ (engOf t.blk s.e).dfpc = s.pc ∧ reg t.blk (aE s.e 0x0C) = BitVec.ofNat 14 k ∧
        fld (reg t.blk (aB 0x200)) 9 4 = 4 ∧ bit (reg t.blk (aB 0x200)) 13 = true ∧
        (s.ctx t.blk).data = [] ∧ (s.ctx t.blk).ret = [] ∧ (engOf t.blk s.e).tpc = (engOf b s.e).tpc ∧
        (engOf t.blk s.e).tps = (engOf b s.e).tps ∧ (engOf t.blk s.e).tinfo = (engOf b s.e).tinfo
    (Meets st e 0x7F s b → stops 3 (exec (.illegal e) st)) ∧
    (Meets st e 0x7C s b → bit (reg b (aE s.e 0x30)) 5 = false → stops 19 (exec (.dbgbrk e) st)) ∧
    (Meets st e 0x79 s b → stops 3 (exec (.fdup e) st))

/-- R208, R357: RETE in FE resumes the context of TCAUSE at TPC with PS := TPS; RETE of a handler, with nothing deliverable above
the restored level, pops the frame, restores level and PS, and resumes the context, or makes it IDLE again. -/
def Obligations.ReturnsRestoreTheContext : Prop :=
  ∀ (st : State) (e : Nat) (s : Site) (b : Blk) (lv ps pc : SCell) (r : List SCell),
    (Meets st e 0x4B s b → s.c = 4 → (engOf b s.e).abandFE = false →
      let c := fld (reg b (aE s.e 0x04)) 10 3
      let x := engOf b s.e
      Stays s (onCtx s.e c (fun y => { y with
        pc := wid s.tw x.tpc, sylb := bit (reg b (aE s.e 0x04)) 13, ps := x.tps &&& 0x3FFE }) (switchIn s.e c b)) (exec (.rete e) st)) ∧
    (Meets st e 0x4B s b → 1 ≤ s.c → s.c ≤ 3 → s.kern = true → (engOf b s.e).stepping = false →
      (s.ctx b).ret = lv :: ps :: pc :: r → lv.p = false → ps.p = false → pc.p = false →
      let level (b : Blk) : Blk := setReg (aF s.field (0x120 + 3 * locOf s.e + s.c - 1)) (BitVec.ofNat 14 (fld lv.v 0 9)) b
      let back (b : Blk) := level (onCtx s.e s.c (fun y => { y with ps := (lo14 ps.v &&& 0x37FE) ||| (y.ps &&& 0x0800) }) b)
      called (back b) s.e s.c = false →
        let d := onCtx s.e s.c (fun y => { y with
          ret := r, pc := s.addr pc.v, sylb := bit lv.v 13, state := if bit lv.v 12 then 0 else y.state })
          (back (endLock s.e s.c b))
        Stays s (if bit lv.v 12 then onEng s.e (fun x => { x with run := none }) d else d) (exec (.rete e) st))

/-- R351, R352, R355: at a boundary where the scheduler takes a context by an event, the frame (LV, PS, PC) is pushed on its
return stack, the claim value on its data stack, its number is the level, and the handler is next. -/
def Obligations.EventEntryPushesTheFrame : Prop :=
  ∀ (st : State) (e c q : Nat), st.blk.md.off = false → overrunIfLate (fldOf e) st.blk = st.blk →
    let b := st.blk
    let y := ctxOf b e c
    let b1 := switchIn e c b
    (∀ n q, micro { b with free := n } (fldOf e) (seqEntry q) = .fine) → (engOf b e).entry = none →
    mayIssue b e = true → pick b e = some (c, true) → (engOf b e).lops = [] → (engOf b e).stepping = false →
    topSource b1 (fldOf e) (locOf e) c = some q → y.dgrp = 0 → y.rgrp = 0 → y.ret.length + 3 ≤ capRet c → y.data.length + 1 ≤ capData c →
      let x := srcOf (fieldOf b1 (fldOf e)) q
      let idle := decide (y.state = 0)
      let lv := b2n (y.sylb && !idle) * 0x2000 + b2n (decide (y.state ≠ 1)) * 0x1000 + (reg b (aF (fldOf e) (0x120 + 3 * locOf e + c - 1))).toNat
      ∃ t, exec (.eventEntry e) st = .next t ∧
        (ctxOf t.blk e c).ret = sc (BitVec.ofNat 28 lv) :: sc (y.ps.setWidth 28) :: sc (if idle then 0 else y.pc) :: y.ret ∧
        (ctxOf t.blk e c).data = sc ((BitVec.ofNat 14 (min x.r 31 * 512 + q)).setWidth 28) :: y.data ∧
        (ctxOf t.blk e c).sylb = false ∧ (ctxOf t.blk e c).state = 1 ∧ (engOf t.blk e).run = some c ∧ (engOf t.blk e).entry = none ∧
        reg t.blk (aF (fldOf e) (0x120 + 3 * locOf e + c - 1)) = BitVec.ofNat 14 q ∧
        (∀ h, srcLive b1 (fldOf e) q = some h → isTwin b1 e = false →
          (ctxOf t.blk e c).pc = BitVec.ofNat 28 (((reg b1 (aF (fldOf e) 0x103)).toNat + 2 * h.hidx) % 0x4000)) ∧
        (∀ a, a < 0x220000 → rawWord t.blk a = rawWord b a)

/-! Long operations and floats (chapter 8). -/

/-- R239, R260 to R265, R271: a long operation takes its operands, leaves pending places, and puts its results, with P, and the
flags it writes into the long-op unit: products (low, then high), quotients and remainders, digit sums. The trap that an operation
could raise is not enabled. -/
def Obligations.LongOperationsIssueTheirResults : Prop :=
  ∀ (st : State) (e : Nat) (s : Site) (b : Blk) (x y : SCell) (l : List SCell), (s.ctx b).data = y :: x :: l →
    let w := s.tw
    let p := x.p || y.p
    let place : SCell := { v := 0, p := true, pend := true }
    let issues (res : List (BitVec 28 × Bool)) (mask val : BitVec 14) (hold : Bool) := LeavesData s (onEng s.e (fun z => { z with
      lops := z.lops ++ [{ ctx := s.c, res := res, fres := [], psMask := mask, psVal := val, fl := 0, hold := hold, float := false }] }) b)
      (res.map (fun _ => place) ++ l)
    let both (lo hi : Int) : List (BitVec 28 × Bool) := [(ofInt w lo, p), (ofInt w hi, p)]
    let n := sval w x.v
    let d := sval w y.v
    let u := uval w x.v
    let v := uval w y.v
    let digits (sub : Bool) : Option (BitVec 28 × Bool) := decimal w sub x.v y.v (b2n (psC (s.ctx b)))
    let q := p || psPF (s.ctx b)
    let dec (sub : Bool) := issues [(((digits sub).map (fun r => r.1)).getD (BitVec.ofNat 28 (umod w - 1)), q)] 0x32
      (psWith 0 [(4, (digits sub).isNone), (1, (digits sub).any (fun r => r.2)), (5, q)]) false
    let quiet : Prop := psTZ (s.ctx b) = false ∧ psTV (s.ctx b) = false
    (Meets st e 0x50 s b → issues (both (n * d) (n * d / (umod w : Int))) 0 0 false (exec (.mul e) st)) ∧
    (Meets st e 0x51 s b → issues (both (u * v : Nat) (u * v / umod w : Nat)) 0 0 false (exec (.mulu e) st)) ∧
    (Meets st e 0x52 s b → quiet → d ≠ 0 → issues (both (n.tmod d) (n.tdiv d)) 0x2C
      (psWith 0 [(2, decide (n = smin w) && decide (d = -1)), (5, p)]) true (exec (.div e) st)) ∧
    (Meets st e 0x52 s b → quiet → d = 0 → issues (both n (if n < 0 then smin w else smax w)) 0x2C (psWith 0 [(3, true), (5, p)]) true
      (exec (.div e) st)) ∧
    (Meets st e 0x53 s b → psTZ (s.ctx b) = false → v ≠ 0 → issues (both (u % v : Nat) (u / v : Nat)) 0x08 0 true (exec (.divu e) st)) ∧
    (Meets st e 0x53 s b → psTZ (s.ctx b) = false → v = 0 → issues (both u (umod w - 1 : Nat)) 0x08 0x08 true (exec (.divu e) st)) ∧
    (Meets st e 0x54 s b → psTD (s.ctx b) = false → dec false (exec (.dadd e) st)) ∧
    (Meets st e 0x55 s b → psTD (s.ctx b) = false → dec true (exec (.dsub e) st))

/-- R239, R275 to R283: a float operation takes its operands from the float stack and issues the result of its format and of PS.RM,
with P from its operands and its FSTATUS flags. FPA is set, no enable is, and no rounding mode waits for a SYNC. -/
def Obligations.FloatOperationsIssueTheirResults : Prop :=
  ∀ (st : State) (e : Nat) (s : Site) (b : Blk) (x y : SCell) (r : List SCell), s.c ≠ 4 → psFPA (s.ctx b) = true →
    fenables (s.ctx b) = 0 → (s.ctx b).rmOld = none →
    let f := fmtOf s.tw
    let m := psRM (s.ctx b)
    let issues (hold : Bool) (r : List SCell) (v : Fr) (p : Bool) := LeavesData s (onEng s.e (fun z => { z with
      fst := { v := 0, p := true, pend := true } :: r
      lops := z.lops ++ [{ ctx := s.c, res := [], fres := [(v.v, p)], psMask := 0, psVal := 0, fl := v.fl &&& 0x1F, hold := hold,
                           float := true }] }) b)
      (s.ctx b).data
    let u := unpack f x.v
    let v := unpack f y.v
    let p := x.p || y.p
    ((engOf b s.e).fst = y :: x :: r → r.length ≤ 2 →
      (Meets st e 0x56 s b → issues false r (faddV f m u v) p (exec (.fadd e) st)) ∧
      (Meets st e 0x57 s b → issues false r (faddV f m u (negV v)) p (exec (.fsub e) st)) ∧
      (Meets st e 0x58 s b → issues false r (fmulV f m u v) p (exec (.fmul e) st)) ∧
      (Meets st e 0x59 s b → issues true r (fdivV f m u v) p (exec (.fdiv e) st)) ∧
      (Meets st e 0x5E s b → issues false r (fpick f true x.v y.v) p (exec (.fmin e) st)) ∧
      (Meets st e 0x5F s b → issues false r (fpick f false x.v y.v) p (exec (.fmax e) st))) ∧
    ((engOf b s.e).fst = x :: r → r.length ≤ 3 → Meets st e 0x5A s b → issues true r (fsqrtV f m u) x.p (exec (.fsqrt e) st))

/-- R241, R283 to R285, R332: FCMP leaves 0, 1, 2 or 3 for equal, less, greater or unordered, FTOI the rounded integer, ITOF the float of
an integer, FWIDEN and FNARROW a float in the other format: as two cells in a single engine, as a cell in a pair. FLD, FST, FDUP,
FDROP and FSWAP move cells as they are between and within the stacks, P with them. -/
def Obligations.FloatComparisonsConversionsAndMoves : Prop :=
  (∀ (st : State) (e : Nat) (s : Site) (b : Blk) (x y : SCell) (r l : List SCell), s.c ≠ 4 → psFPA (s.ctx b) = true →
    fenables (s.ctx b) = 0 → (s.ctx b).rmOld = none → r.length ≤ 2 →
    let f := fmtOf s.tw
    let m := psRM (s.ctx b)
    let place : SCell := { v := 0, p := true, pend := true }
    let issues (res fres : List (BitVec 28 × Bool)) (fl : BitVec 14) (l : List SCell) := LeavesData s (onEng s.e (fun z => { z with
      fst := fres.map (fun _ => place) ++ r
      lops := z.lops ++ [{ ctx := s.c, res := res, fres := fres, psMask := 0, psVal := 0, fl := fl &&& 0x1F, hold := false,
                           float := true }] }) b)
      (res.map (fun _ => place) ++ l)
    let room : Prop := (s.ctx b).data.length + 2 ≤ capData s.c
    ((engOf b s.e).fst = y :: x :: r → room → Meets st e 0x5B s b →
      issues [(BitVec.ofNat 28 (fcmpV (unpack f x.v) (unpack f y.v)).1, x.p || y.p)] [] (fcmpV (unpack f x.v) (unpack f y.v)).2
        (s.ctx b).data (exec (.fcmp e) st)) ∧
    ((engOf b s.e).fst = x :: r → room →
      (Meets st e 0x5C s b → issues [((ftoiV s.tw m (unpack f x.v)).v, x.p)] [] (ftoiV s.tw m (unpack f x.v)).fl (s.ctx b).data
        (exec (.ftoi e) st)) ∧
      (Meets st e 168 s b → s.tw = false →
        let v := (convertV tf28 0 false (unpack cf14 x.v)).v
        issues [((lo14 v).setWidth 28, x.p), ((hi14 v).setWidth 28, x.p)] [] 0 (s.ctx b).data (exec (.fwiden e) st)) ∧
      (Meets st e 169 s b → s.tw = true →
        let v := convertV cf14 m true (unpack tf28 x.v)
        issues [(v.v, x.p)] [] v.fl (s.ctx b).data (exec (.fnarrow e) st))) ∧
    ((engOf b s.e).fst = r → (s.ctx b).data = x :: l →
      (Meets st e 0x5D s b → issues [] [((itofV f m (sval s.tw x.v)).v, x.p)] (itofV f m (sval s.tw x.v)).fl l (exec (.itof e) st)) ∧
      (Meets st e 168 s b → s.tw = true →
        issues [] [((convertV tf28 0 false (unpack cf14 ((lo14 x.v).setWidth 28))).v, x.p)] 0 l (exec (.fwiden e) st))) ∧
    ((engOf b s.e).fst = r → (s.ctx b).data = y :: x :: l → Meets st e 169 s b → s.tw = false →
      let v := convertV cf14 m true (unpack tf28 (pair (lo14 x.v) (lo14 y.v)))
      issues [] [(v.v, x.p || y.p)] v.fl l (exec (.fnarrow e) st))) ∧
  (∀ (st : State) (e : Nat) (s : Site) (b : Blk) (x y : SCell) (r l : List SCell), s.c ≠ 4 → psFPA (s.ctx b) = true → r.length ≤ 2 →
    let leaves (r l : List SCell) := LeavesData s (onEng s.e (fun z => { z with fst := r }) b) l
    let d := (s.ctx b).data
    ((engOf b s.e).fst = r → d = x :: l → Meets st e 0x77 s b → leaves (x :: r) l (exec (.fld e) st)) ∧
    ((engOf b s.e).fst = x :: r →
      (Meets st e 0x78 s b → d.length + 1 ≤ capData s.c → leaves r (x :: d) (exec (.fst e) st)) ∧
      (Meets st e 0x79 s b → leaves (x :: x :: r) d (exec (.fdup e) st)) ∧
      (Meets st e 0x7A s b → leaves r d (exec (.fdrop e) st))) ∧
    ((engOf b s.e).fst = y :: x :: r → Meets st e 0x7B s b → leaves (x :: y :: r) d (exec (.fswap e) st)))

/-- R301, R304, R305: LONG_OP_COMPLETE fills the places of the engine's oldest long operation with its results, deepest first, and
writes its PS and FSTATUS flags in its context; STORE_DRAIN takes the oldest store of own field memory out of the buffer, its cell
decoding from the word in memory thereafter. -/
def Obligations.CompletionsAndDrains : Prop :=
  ∀ (st : State) (e : Nat) (o : LOp) (os : List LOp), st.blk.md.off = false →
    let b := st.blk
    (clocked b (fldOf e) = true → e < nEngines b → (engOf b e).lops = o :: os → o.ctx < 5 →
      ∀ (places l fl : List SCell), (ctxOf b e o.ctx).data = places ++ l → places.length = o.res.length →
        (places.all (fun c => c.pend)) = true → (l.all (fun c => !c.pend)) = true → (fl.all (fun c => !c.pend)) = true →
        ((engOf b e).fst = fl ∧ o.fres = [] ∨ ∃ r q, (engOf b e).fst = { v := 0, p := true, pend := true } :: fl ∧ o.fres = [(r, q)]) →
        ∃ t, exec (.longOpComplete e) st = .next t ∧
          (ctxOf t.blk e o.ctx).data = (o.res.map (fun r => scP r.1 r.2)).reverse ++ l ∧
          (engOf t.blk e).fst = o.fres.map (fun r => scP r.1 r.2) ++ fl ∧
          (ctxOf t.blk e o.ctx).ps = ((ctxOf b e o.ctx).ps &&& ~~~o.psMask) ||| o.psVal ∧
          (ctxOf t.blk e o.ctx).fstatus = (ctxOf b e o.ctx).fstatus ||| o.fl ∧ (engOf t.blk e).lops = os ∧
          (∀ i k, (i ≠ e ∨ k ≠ o.ctx) → ctxOf t.blk i k = ctxOf b i k) ∧ t.blk.regs = b.regs ∧ t.blk.mem = b.mem) ∧
    (clocked b (fldOf e) = true → e < nEngines b → ∀ (a k : Nat) (c : BCell) (q : Option Nat) (xs : List SBuf),
      (engOf b e).sbuf = { ws := [(a, c)], seq := q, ctx := k } :: xs → a < 0x80000 → a / 0x10000 = fldOf e → heldByAny b a = false →
      (fieldOf b (fldOf e)).clearing = false → (fieldOf b (fldOf e)).sinter.phase = 0 → (fieldOf b (fldOf e)).bad = [] →
      (fieldOf b (fldOf e)).lastB = [] → bit (reg b (aF (fldOf e) 0x1C3)) 13 = false →
        ∃ t, exec (.storeDrain e) st = .next t ∧ (engOf t.blk e).sbuf = xs ∧
          rawWord t.blk a = (if c.p then 0 else storedWord c.v) ∧ (∀ a', a' ≠ a → rawWord t.blk a' = rawWord b a') ∧
          t.blk.regs = b.regs ∧ (∀ i, i ≠ e → engOf t.blk i = engOf b i) ∧ (∀ k, ctxOf t.blk e k = ctxOf b e k))

/-! System syllables (chapters 6 and 7). -/

/-- R197, R242 to R244, R246, R268: SYNC and ISYNC go on once every earlier write of their context has taken effect, ISYNC keeping of the prefetched cells
none but its own; SETVIEW and GETVIEW write and read a view, SETRM writes PS.RM, CYCLES pushes CYC from one instant, STIM pops. -/
def Obligations.SystemSyllables : Prop :=
  ∀ (st : State) (e : Nat) (s : Site) (b c : Blk) (x y : SCell) (l : List SCell),
    let synced : Blk := onCtx s.e s.c (fun y => { y with rmOld := none }) c
    let d := (s.ctx b).data
    (synchronized s.e s.c b = .ok c → Undisturbed s b c → Settled s c →
      (Meets st e 0x73 s b → Leaves s synced (s.ctx c).data (s.ctx c).ret (s.ctx c).ps (exec (.sync e) st)) ∧
      (Meets st e 0x74 s b → Leaves s synced (s.ctx c).data (s.ctx c).ret (s.ctx c).ps (exec (.isync e) st) ∧
        ∃ t, exec (.isync e) st = .next t ∧ ∀ p ∈ (engOf t.blk s.e).pf, p.a = s.pc)) ∧
    (d = x :: y :: l → x.p = false → y.p = false → (s.kern = true ∨ bit (reg b (aE s.e 0x0A)) (fld x.v 0 2) = true) →
      Meets st e 144 s b → LeavesData s (onCtx s.e s.c (fun z => { z with
        views := upd (fun _ => wid s.tw y.v) z.views (fld x.v 0 2) }) b) l (exec (.setview e) st)) ∧
    (d = x :: l → x.p = false →
      (Meets st e 145 s b → LeavesData s b (sc (nth 0 (s.ctx b).views (fld x.v 0 2)) :: l) (exec (.getview e) st)) ∧
      (Meets st e 148 s b → Leaves s (onCtx s.e s.c (fun z => { z with rmOld := some (fld z.ps 9 2) }) b) l (s.ctx b).ret
        (putf (s.ctx b).ps 9 2 (fld x.v 0 2)) (exec (.setrm e) st))) ∧
    (d = x :: l → Meets st e 0x7D s b → LeavesData s b l (exec (.stim e) st)) ∧
    (Meets st e 149 s b → d.length + 2 ≤ capData s.c →
      LeavesData s b (sc ((hi14 (engOf b s.e).cyc).setWidth 28) :: sc ((lo14 (engOf b s.e).cyc).setWidth 28) :: d) (exec (.cycles e) st))

/-- R185, R210, R212: MFC pushes an engine or context register, MTC writes one with its popped operand (a write of PC transfers
control, one of PS at kernel level writes bits 13:1), and CTXRD and CTXWR do the same for any context of the engine. -/
def Obligations.RegisterSyllables : Prop :=
  ∀ (st : State) (e : Nat) (s : Site) (b : Blk) (x y z : SCell) (l : List SCell), s.kern = true → (engOf b s.e).sbuf = [] →
    let n := s.partner
    let d := (s.ctx b).data
    let room : Prop := d.length + 1 ≤ capData s.c
    let leaves (o : List SCell) (c : Blk) (out : Host.Outcome State Fault Refusal) : Prop :=
      Undisturbed s b c → Leaves s c (o ++ (s.ctx c).data) (s.ctx c).ret (s.ctx c).ps out
    (Meets st e 0x75 s b → room →
      (64 ≤ n → LeavesData s b (scP (wid s.tw (ctxReg b s.e s.c (n - 64)).1) (ctxReg b s.e s.c (n - 64)).2 :: d) (exec (.mfc e) st)) ∧
      (n < 64 → leaves [scP (wid s.tw (engValue b s.master s.e n).1) (engValue b s.master s.e n).2]
        (regRead s.master (aE s.e n) b).2 (exec (.mfc e) st))) ∧
    (d = x :: l → x.p = false → Meets st e 0x76 s b →
      (n = 64 → Jumps s b l (s.ctx b).ret x.v (exec (.mtc e) st)) ∧
      (n = 65 → s.c ≠ 4 → Leaves s b l (s.ctx b).ret (lo14 x.v &&& 0x3FFE) (exec (.mtc e) st)) ∧
      (65 < n → leaves [] (writeCtx s.e s.c (n - 64) x.v false (putData s 1 [] b)) (exec (.mtc e) st)) ∧
      (n = 5 → LeavesData s (onEng s.e (fun w => { w with tpc := wid s.tw x.v }) b) l (exec (.mtc e) st)) ∧
      (n < 64 → n ≠ 5 → leaves [] (regWrite s.master (aE s.e n) none (clean (lo14 x.v)) (putData s 1 [] b)) (exec (.mtc e) st))) ∧
    (d = x :: y :: l → x.p = false → y.p = false → uval s.tw y.v ≤ 4 → uval s.tw x.v ≤ 63 → Meets st e 146 s b →
      let r := ctxReg b s.e (uval s.tw y.v) (uval s.tw x.v)
      LeavesData s b (scP (wid s.tw r.1) r.2 :: l) (exec (.ctxrd e) st)) ∧
    (d = x :: y :: z :: l → x.p = false → y.p = false → z.p = false → uval s.tw y.v ≤ 4 → uval s.tw x.v ≤ 63 → Meets st e 147 s b →
      leaves [] (ctxWrite s.e (uval s.tw y.v) (uval s.tw x.v) z.v false (putData s 3 [] b)) (exec (.ctxwr e) st))

/-- R246, R331, R346: EVCLAIM pushes what a read of the EVCLAIM register of the engine's own index delivers, whatever the views
map, and EVDONE buffers its operand for that of EVDONE. -/
def Obligations.EventSyllables : Prop :=
  ∀ (st : State) (e : Nat) (s : Site) (b : Blk) (x : SCell) (l : List SCell),
    let k := locOf s.e
    (Meets st e 136 s b → (engOf b s.e).sbuf = [] → (s.ctx b).data.length + 1 ≤ capData s.c →
      let r := regRead s.master (aF s.field (0x110 + k)) b
      let d := watch s false false [(aF s.field (0x110 + k), r.1)] r.2
      Undisturbed s b d →
        Leaves s d (scP (r.1.v.setWidth 28) r.1.p :: (s.ctx d).data) (s.ctx d).ret (s.ctx d).ps (exec (.evclaim e) st)) ∧
    (Meets st e 137 s b → roomFor s.e 1 b = .ok b → (s.ctx b).data = x :: l → x.p = false →
      let w := [(aF s.field (0x118 + k), clean (lo14 x.v))]
      Leaves s (watch s true false w (putStore s w (putData s 1 [] b))) l (s.ctx b).ret (s.ctx b).ps (exec (.evdone e) st))

/-- R183, R211, R212: a context register reads as the table says: PS of FE with K = 1, a stack cell at or above the occupancy 0 with
P = 1, DEPTH and CSTATE from the context; and a write of one reads back at its index where the register holds it. -/
def Obligations.ContextRegistersReadAndWrite : Prop :=
  ∀ (b : Blk) (e c i : Nat) (v : BitVec 28), e < 64 → c < 4 → isTwin b e = true →
    let w := writeCtx e c i v false b
    (ctxReg b e 4 1 = (((ctxOf b e 4).ps ||| 0x2000).setWidth 28, bit (ctxOf b e 4).ps 5)) ∧
    (16 + (ctxOf b e c).data.length ≤ i → i < 32 → ctxReg b e c i = (0, true)) ∧
    (32 + (ctxOf b e c).ret.length ≤ i → i < 40 → ctxReg b e c i = (0, true)) ∧
    ((i = 0 ∨ (2 ≤ i ∧ i < 12 ∧ ((i < 8 ∨ i - 8 < (ctxOf b e c).views.length))) ∨ (16 ≤ i ∧ i < 16 + (ctxOf b e c).data.length ∧ i < 32) ∨
        (32 ≤ i ∧ i < 32 + (ctxOf b e c).ret.length ∧ i < 40)) → (ctxReg w e c i).1 = v) ∧
    (i < 40 → ∀ k, k < 40 → k ≠ i → k ≠ 13 → k ≠ 14 → i ≠ 13 → i ≠ 14 → (ctxReg w e c k).1 = (ctxReg b e c k).1) ∧
    ∀ j d, (j ≠ e ∨ d ≠ c) → Woken (ctxOf b j d) (ctxOf w j d)

/-! Registers (chapters 2, 5, 11 to 14, 16, 19 and 20). -/

/-- R17, R19, R68, R73, R211, R346, R453: a read by a master whose reads act clears an RC register, latches the high cell of a
wide register, clears NEW of a capture set, claims the highest pending source of an engine, advances CTXDATA and pops CMDOUT;
a debug read with read effects off has no such effect (R19, R535), nor has one of a unit that does not answer (R494); a counter of the
timebase keeps its value while NOBCLK is 1 (R56). The model's choice: a look at SLEEPLO in WATCH finds it counted on by a free number
(log entry 118), which `lookAt` gives. -/
def Obligations.ReadsWithSideEffects : Prop :=
  ∀ (st : State) (m : Master), Awake st.blk →
    let b := st.blk
    (readsAct b m = true → ∀ a, regHere b a = true → atOdd b a = false →
      (isRc a = true → Becomes st (.counterRead m a) (if isTbReg a && nobclk b then b else setReg a 0 b)) ∧
      (∀ v, wideAt (lookAt a b) a = some v →
        let d := setLatch m (a + 1) (hi14 v) (lookAt a b)
        Becomes st (.wideLoRead m a) d ∧ regValue (lookAt a b) m a = clean (lo14 v) ∧ regValue d m (a + 1) = clean (hi14 v))) ∧
    (readsAct b m = true → ∀ k, k < 8 →
      (nobclk b = false → Becomes st (.capslotRead m k) (clrReg (aB (0x063 + 4 * k)) 1 b)) ∧
      (nobclk b = true → Becomes st (.capslotRead m k) (onTb (fun t => { t with capRd := t.capRd ++ [k] }) b))) ∧
    (readsAct b m = true → ∀ f k, f < 8 → k < 8 → clocked b f = true → isOdd b (8 * f + k) = false →
      (∀ q, topClaim b f k = some q → Becomes st (.evclaimRead m f k)
        (refreshLines f (putSrc f q { st := .active, r := 0, g := 0, repend := false, claimer := k } (readEnt f q b)))) ∧
      (topClaim b f k = none → Becomes st (.evclaimRead m f k) b)) ∧
    (readsAct b m = true → ∀ e, e < 64 → clocked b (e / 8) = true → isOdd b e = false → (engOf b e).lops = [] →
      let step (c : Blk) : Blk :=
        if bit (reg b (aE e 0x02)) 6 then setReg (aE e 0x02) (putf (reg b (aE e 0x02)) 0 6 (fld (reg b (aE e 0x02)) 0 6 + 1)) c else c
      (isTwin b e = false → Becomes st (.ctxdataRead m e) (step b)) ∧
      (isTwin b e = true → (engOf b e).half = none → Becomes st (.ctxdataRead m e)
        (onEng e (fun x => { x with half := some (false, (selected b e).1, (selected b e).2) }) b)) ∧
      (isTwin b e = true → (engOf b e).half ≠ none → Becomes st (.ctxdataRead m e)
        (step (onEng e (fun x => { x with half := none }) b)))) ∧
    (readsAct b m = true → b.stw.waiting = [] →
      Becomes st (.cmdoutRead m) (onStw (fun w => { w with cmdout := w.cmdout.drop 1 }) b)) ∧
    (readsAct b m = false → ∀ a f k e, Becomes st (.counterRead m a) b ∧ Becomes st (.wideLoRead m a) (lookAt a b) ∧
      Becomes st (.capslotRead m k) b ∧ Becomes st (.evclaimRead m f k) b ∧ Becomes st (.ctxdataRead m e) b ∧
      Becomes st (.cmdoutRead m) b) ∧
    (∀ a, regHere b a = false → regValue b m a = absentCell ∧ Becomes st (.counterRead m a) b ∧ Becomes st (.wideLoRead m a) b)

/-- R16, R17, R494, R511: a write of a register whose row has no rule of its own stores the RW bits, clears each W1C bit written as 1
and leaves the rest; where no unit answers, or the address is unassigned, nothing changes, nor at a timebase register while NOBCLK is
1 (R56); a poisoned cell from the host is discarded and counted in HPSTAT, and one from the steward or link DMA discarded. A command
that names the write of one register is the write of that register. -/
def Obligations.RegisterWritesByAccessCode : Prop :=
  ∀ (st : State) (m : Master) (a : Nat) (c : BCell), Awake st.blk → isRegAddr a = true →
    let b := st.blk
    let acts : Prop := c.p = false ∨ m = .debug ∨ ∃ e, m = .engine e
    (acts → regHere b a = true → atOdd b a = false → plainReg a = true → (isTbReg a && nobclk b) = false →
      (∀ d, regRow a = some d → Becomes st (.registerWrite m a c) (setReg a (writeRow d (reg b a) c.v) b) ∧
        ∀ i, i < 14 → bit (writeRow d (reg b a) c.v) i =
          if bit d.rw i then bit c.v i else bit (reg b a) i && !(bit d.w1c i && bit c.v i)) ∧
      (regRow a = none → Becomes st (.registerWrite m a c) b)) ∧
    (acts → isTbReg a = true → nobclk b = true → Becomes st (.registerWrite m a c) b) ∧
    (regHere b a = false → isDoorbell a = false → Becomes st (.registerWrite m a c) b) ∧
    (acts → atOdd b a = true → Becomes st (.registerWrite m a c) b) ∧
    (c.p = true → a ≠ aB 0x010 → isDoorbell a = false → regHere b a = true →
      Becomes st (.registerWrite .host a c) (orReg (aB 0x01B) 4 b) ∧ Becomes st (.registerWrite .steward a c) b ∧
      Becomes st (.registerWrite .linkDma a c) b) ∧
    (∀ x ∈ [(Instr.tbSpsWrite m c, aB 0x042), (.gstartWrite m c, aB 0x050), (.fabIdWrite m false c, aB 0x182),
        (.fabIdWrite m true c, aB 0x183), (.hostbellsetWrite m c, aB 0x01A), (.freezeWrite m c, aB 0x302), (.cmdinWrite m c, aB 0x010),
        (.ploadWrite m c, aB 0x206)], exec x.1 st = exec (.registerWrite m x.2 c) st) ∧
    (∀ f, f < 8 → ∀ x ∈ [(Instr.mapalignWrite m f c, 0x042), (.matringWrite m f c, 0x080), (.fcfgWrite m f c, 0x000),
        (.rotWrite m f c, 0x003), (.decisionWrite m f c, 0x006), (.primqWrite m f c, 0x007), (.doorbellWrite m f c, 0x100)],
      exec x.1 st = exec (.registerWrite m (aF f x.2) c) st) ∧
    (∀ f i, f < 8 → (i < 4 → exec (.tmrPeriodWrite m f i c) st = exec (.registerWrite m (aF f (0x142 + 4 * i)) c) st) ∧
      (i < 32 → exec (.mapmaskWrite m f i c) st = exec (.registerWrite m (aF f (0x060 + i)) c) st) ∧
      (i < 8 → exec (.evdoneWrite m f i c) st = exec (.registerWrite m (aF f (0x118 + i)) c) st) ∧
      (i < 32 → exec (.stimWrite m f i c) st = exec (.registerWrite m (aF f (0x280 + i)) c) st)) ∧
    (∀ e n, e < 64 → exec (.ctxdataWrite m e c) st = exec (.registerWrite m (aE e 0x03) c) st ∧
      (1 ≤ n → n < 4 → exec (.deadlineWrite m e n c) st = exec (.registerWrite m (aE e (0x22 + n)) c) st)) ∧
    (∀ i, i < 42 → exec (.calWrite m i c) st = exec (.registerWrite m (aB (0x100 + i)) c) st)

/-- R29, R80, R128, R141, R153, R173, R480: a write of a field's ROT, TMRkPERIOD, MAPALIGN, MAPMASKj, MATRING or FCFG stores its
value where its guard holds, and otherwise leaves the register and sets the refusal flag the rule names; a FEN that goes to 0 where it
was in effect takes effect at the next boundary. -/
def Obligations.GuardedFieldRegisters : Prop :=
  ∀ (st : State) (m : Master) (f : Nat) (c : BCell), Awake st.blk → f < 8 → clocked st.blk f = true → c.p = false →
    let b := st.blk
    let v := c.v
    let cfg := reg b (aF f 0x000)
    (fenBit b f = false → Becomes st (.rotWrite m f c)
      (setReg (aF f 0x003) ((reg b (aF f 0x003) &&& ~~~0x7FF) ||| (v &&& 0x7FF)) (onField f (fun g => { g with posWarm := false }) b))) ∧
    (fenBit b f = true → Becomes st (.rotWrite m f c) (orReg (aF f 0x001) 0x02 b)) ∧
    (∀ k, k < 4 → Becomes st (.tmrPeriodWrite m f k c) (setReg (aF f (0x142 + 4 * k)) v b)) ∧
    (∀ j, j < 32 → Becomes st (.mapmaskWrite m f j c) (setReg (aF f (0x060 + j)) v b)) ∧
    (modeOf b = 2 ∨ modeOf b = 3 →
      let d := setReg (aF 0 0x042) (BitVec.ofNat 14 (max 1 (fld v 0 6))) b
      Becomes st (.mapalignWrite m f c) d ∧ ∀ g, g < 8 → fieldValue d m g 0x042 = cleanN (max 1 (fld v 0 6))) ∧
    (modeOf b ≠ 2 → modeOf b ≠ 3 → Becomes st (.mapalignWrite m f c) (orReg (aF f 0x041) 0x80 b)) ∧
    (fenBit b f = false → busyOf b f = false → (bit cfg 13 = false ∨ fld v 8 4 ≠ fld cfg 9 4) →
      Becomes st (.matringWrite m f c) (setReg (aF f 0x080) (BitVec.ofNat 14 (fld v 8 4 * 256 + min 240 (fld v 0 8))) b)) ∧
    (fenBit b f = true ∨ busyOf b f = true ∨ (bit cfg 13 = true ∧ fld v 8 4 = fld cfg 9 4) →
      Becomes st (.matringWrite m f c) (orReg (aF f 0x081) 0x40 b)) ∧
    (let fenOk := bit v 0 = false ∨ modeOf b = 4 ∨ modeOf b = 5 ∨ modeOf b = 6
     let peerBad := (v &&& 0x3E00 ≠ cfg &&& 0x3E00 ∧ (fenBit b f = true ∨ busyOf b f = true)) ∨
       (bit v 13 = true ∧ fld v 9 4 = fld (reg b (aF f 0x080)) 8 4)
     let put (n : BitVec 14) : Blk := let d := setReg (aF f 0x000) n b; if bit n 0 then d else fenCleared f d
     (fenOk → ¬ peerBad → Becomes st (.fcfgWrite m f c) (put (v &&& 0x3E1F))) ∧
     (fenOk → peerBad → Becomes st (.fcfgWrite m f c) (orReg (aF f 0x001) 0x40 (put ((v &&& 0x1F) ||| (cfg &&& 0x3E00))))) ∧
     (¬ fenOk → ¬ peerBad → Becomes st (.fcfgWrite m f c) (orReg (aB 0x003) 2 (put ((v &&& 0x3E1E) ||| (cfg &&& 1))))) ∧
     (¬ fenOk → peerBad → Becomes st (.fcfgWrite m f c)
       (orReg (aB 0x003) 2 (orReg (aF f 0x001) 0x40 (put ((v &&& 0x1E) ||| (cfg &&& 0x3E01)))))))

/-- R57, R120, R391, R417, R521, R548 and R124, R340: TB.SPS, the device ID, the CAL values, the flip mask, the host bells
(whose lines rise where IRQENj enables them), FREEZE, the route and member entries and the source table take a written value where their guard holds, with what the rule adds; TB.SPS
takes none while NOBCLK is 1 (R56). -/
def Obligations.GuardedBlockRegisters : Prop :=
  ∀ (st : State) (m : Master) (c : BCell), Awake st.blk → c.p = false →
    let b := st.blk
    let v := c.v
    (nobclk b = false → modeOf b = 2 ∨ modeOf b = 3 ∨ modeOf b = 4 → Becomes st (.tbSpsWrite m c) (setReg (aB 0x042) (if v.toNat < 2 then 2 else v) b)) ∧
    (nobclk b = false → ¬ (modeOf b = 2 ∨ modeOf b = 3 ∨ modeOf b = 4) → Becomes st (.tbSpsWrite m c) (orReg (aB 0x041) 0x40 b)) ∧
    (nobclk b = true → Becomes st (.tbSpsWrite m c) b) ∧
    (modeOf b = 2 → Becomes st (.fabIdWrite m false c) (setReg (aB 0x182) v b) ∧
      Becomes st (.fabIdWrite m true c) (setReg (aB 0x183) ((reg b (aB 0x183) &&& ~~~0x3) ||| (v &&& 3)) b)) ∧
    (modeOf b ≠ 2 → ∀ hi, Becomes st (.fabIdWrite m hi c) (orReg (aB 0x181) 4 b)) ∧
    (∀ i, i < 42 → Becomes st (.calWrite m i c) (setReg (aB 0x12A) 2 (setReg (aB (0x100 + i)) v b))) ∧
    (∀ f, f < 8 → clocked b f = true → bit v 13 = true →
      Becomes st (.eccfliphiArm m f c) (setReg (aF f 0x1C3) ((reg b (aF f 0x1C3) &&& 0x1FC0) ||| (v &&& 0x203F)) b)) ∧
    (let d := orReg (aB 0x019) (v &&& 0xF) b
     Becomes st (.hostbellsetWrite m c) d ∧
     ∀ i j, i < 4 → j < 4 → bit v i = true → bit (reg b (aB (0x01C + j))) (10 + i) = true → hostIrq d j = true) ∧
    (mayDebug b m = true → m = .debug → Becomes st (.freezeWrite m c) (setReg (aB 0x302) (v &&& 0x7FF) b)) ∧
    (mayDebug b m = true → m ≠ .debug →
      Becomes st (.freezeWrite m c) (setReg (aB 0x302) ((v &&& 0x6FF) ||| (reg b (aB 0x302) &&& 0x100)) b)) ∧
    (mayDebug b m = false → Becomes st (.freezeWrite m c) b) ∧
    (∀ j, j < 16 → Becomes st (.routeEntryWrite m (0x0F001A0 + j) c) (setReg (aB (0x1A0 + j))
      ((reg b (aB (0x1A0 + j)) &&& ~~~0x7F) ||| (v &&& 0x7F)) b)) ∧
    (∀ i, i < 0x2000 → b.md.fabClear = false → ∃ d, Becomes st (.routeEntryWrite m (0x210000 + i) c) d ∧
      peekMem d (.routeTab i) = clean (v &&& 0x7F) ∧ d = { b with mem := d.mem } ∧ ∀ a, a ≠ 0x210000 + i → rawWord d a = rawWord b a) ∧
    (∀ f i, f < 8 → i < 0x400 → clocked b f = true → (fieldOf b f).clearing = false → ∃ d, Becomes st (.sourceTableWrite m (0x220000 + f * 0x400 + i) c) d ∧
      peekMem d (.srcTab f i) = c ∧ (∀ a, a ≠ 0x220000 + f * 0x400 + i → rawWord d a = rawWord b a) ∧
      d = srcWritten f (i / 2) { b with mem := d.mem })

/-! The timebase, boundaries and modes (chapters 1, 2 and 16). -/

/-- R56, R59, R60, R72, R73, R82, R83: TB.CTL's bits wait for their boundary; TB.GSTART schedules the release two boundaries on, once;
a selected capture edge stores slot and sweep and sets NEW, and OVR over an unread capture, raising 450 or 451 as the flag goes from 0 to
1; NOBCLK costs a held lock, and while it is 1 the timebase takes no write. The model's choices: captures are taken in every mode
but OFF (log entry 103), and `twoOn` foretells no marker. -/
def Obligations.TimebaseWritesAndCaptures : Prop :=
  ∀ (st : State) (m : Master) (c : BCell), Awake st.blk →
    let b := st.blk
    let v := c.v
    (nobclk b = false → Becomes st (.tbCtlSwld m) (orReg (aB 0x040) 1 b) ∧ Becomes st (.tbCtlRtclr m) (orReg (aB 0x040) 2 b)) ∧
    (nobclk b = true → Becomes st (.tbCtlSwld m) b ∧ Becomes st (.tbCtlRtclr m) b ∧ (c.p = false → Becomes st (.gstartWrite m c) b)) ∧
    (c.p = false → nobclk b = false → (fld v 4 8 = 0 ∨ fld v 0 4 = 0 → Becomes st (.gstartWrite m c) b) ∧
      (fld v 4 8 ≠ 0 → fld v 0 4 ≠ 0 → b.tb.gwait ≠ none → Becomes st (.gstartWrite m c) (orReg (aB 0x041) 0x80 b)) ∧
      (fld v 4 8 ≠ 0 → fld v 0 4 ≠ 0 → b.tb.gwait = none → Becomes st (.gstartWrite m c)
        (setReg (aB 0x052) (twoOn b.tb).2 (setReg (aB 0x051) (twoOn b.tb).1
          (onTb (fun t => { t with gwait := some (2, v.extractLsb' 4 8, v.extractLsb' 0 4) }) b))))) ∧
    (∀ k rising, k < 8 →
      let sel := bit (reg b (aB (0x063 + 4 * k))) (if rising then 2 else 3) = true ∧ modeOf b ≠ 0 ∧ nobclk b = false
      let took (n : BitVec 14) : Blk := orReg (aB (0x063 + 4 * k)) n (setReg (aB (0x062 + 4 * k)) (hi14 b.tb.sweep)
        (setReg (aB (0x061 + 4 * k)) (lo14 b.tb.sweep) (setReg (aB (0x060 + 4 * k)) b.tb.slot b)))
      (¬ sel → Becomes st (.capture k rising) b) ∧
      (sel → bit (reg b (aB (0x063 + 4 * k))) 0 = false → Becomes st (.capture k rising) (raiseSlot 450 b.tb.seq (took 1))) ∧
      (sel → bit (reg b (aB (0x063 + 4 * k))) 0 = true → Becomes st (.capture k rising)
        (if bit (reg b (aB (0x063 + 4 * k))) 1 then took 3 else raiseSlot 451 b.tb.seq (took 3)))) ∧
    (locked b = false → Becomes st .nobclkSet (orReg (aB 0x041) 0x100 b)) ∧
    (locked b = true → Reaches st .nobclkSet (fun t => nobclk t = true ∧ locked t = false ∧ bit (reg t (aB 0x041)) 2 = true ∧
      modeOf t = if modeOf b = 6 then 5 else modeOf b))

/-- R57 to R61, R64, R82, R124, R482, R484: at a boundary the slot, the sweep and RUNTIME advance as R58 to R60 say and each running field
receives it; the commands of the boundary at which a pending change is due take that boundary, and the change with it. The model's
choice: a marker in ACQUIRE is judged by the SPS in effect before the boundary, and one that loads slot 0 where R58 gives 0 too starts a
sweep (log entry 101). -/
def Obligations.BoundariesAdvanceTheTimebase : Prop :=
  ∀ st : State, st.blk.md.off = false → CaughtUp st.blk →
    let b := st.blk
    let taken (c : Instr) (also : Blk → Prop) : Prop := Reaches st c (fun t => BoundaryTaken false b t ∧ also t)
    let rs := b.tb.lastMark = false ∧ modeOf b = 5 ∧ b.md.drainWait = false ∧ (b.tb.first = true ∨ nextSlot b.tb ≠ markTarget b (nextSlot b.tb))
    (counting b = false → ∀ mark, Reaches st (.slotBoundary mark) (fun t => t.tb.slot = b.tb.slot ∧ t.tb.sweep = b.tb.sweep ∧
      t.tb.runtime = b.tb.runtime ∧ ∀ f, (fieldOf t f).bq = (fieldOf b f).bq)) ∧
    (b.tb.lastMark = true → Becomes st .marker b) ∧
    (counting b = true →
      taken (.slotBoundary false) (fun _ => True) ∧
      (rs → Reaches st (.slotBoundary true) (BoundaryTaken true b) ∧ Reaches st .marker (BoundaryTaken true b)) ∧
      (¬ rs → Reaches st (.slotBoundary true) (BoundaryTaken false b) ∧ (b.tb.lastMark = false → Reaches st .marker (BoundaryTaken false b))) ∧
      (nextSlot b.tb = 0 → (reg b (aB 0x042)).toNat ≠ b.tb.spsEff →
        taken .spsTakeEffect (fun t => t.tb.spsEff = (reg t (aB 0x042)).toNat)) ∧
      (nextSlot b.tb = 0 → bit (reg b (aB 0x040)) 0 = true →
        taken .sweepLoad (fun t => t.tb.sweep = regPair b (aB 0x04A) ∧ bit (reg t (aB 0x040)) 0 = false)) ∧
      (bit (reg b (aB 0x040)) 1 = true → taken .runtimeClear (fun t => t.tb.runtime = 0 ∧ bit (reg t (aB 0x040)) 1 = false)) ∧
      (b.md.drainWait = true → taken .drainEntry (fun t => t.md.drainWait = false ∧ (∀ f, f < nFields b → fenBit t f = false) ∧
        (modeOf b = 4 ∨ modeOf b = 5 ∨ modeOf b = 6 → modeOf t = 7))) ∧
      (∀ x, b.fabSwap = some x → x.slot.toNat = nextSlot b.tb → x.sweep = lo14 (comingSweep b) →
        taken .routeTableSwap (fun t => t.fabSwap = none ∧ bit (reg t (aB 0x181)) 0 = !(bit (reg b (aB 0x181)) 0))) ∧
      (∀ n fm tm, b.tb.gwait = some (n, fm, tm) → n ≤ 1 → Reaches st .gstartRelease (fun t => ∃ c, BoundaryTaken false b c ∧
        c.tb.gwait = none ∧ reg c (aB 0x051) = c.tb.slot ∧ reg c (aB 0x052) = lo14 c.tb.sweep ∧
        (∀ f, f < nFields c → clocked c f = true → ∃ g, (fieldOf c f).bq = [g] ∧ g.relF = fm ∧ g.relT = tm) ∧
        t = { each (fun f b => if bit fm f then fieldStep f b else b) (List.range (nFields c)) c with auth := c.auth })))

/-- R25, R28, R50, R82, R124, R143, R159, R464, R578: a field processes the oldest boundary that waits: it becomes the present one;
a release it carries resets and enables its timers; FEN takes effect, or ends; and a swap due flips the set in use.
The model's choices: BUSY covers the slots in the pipe (log entry 20), a swap keyed to a slot, SDSET's with them, is made at the
boundary at which that slot's release begins (log entry 90), and a FEN set again may take effect at the boundary at which its clearing
does (log entry 20). -/
def Obligations.FieldsProcessTheirBoundaries : Prop :=
  ∀ (st : State) (f : Nat) (g : Tag) (r : List Tag), st.blk.md.off = false → f < 8 →
    let b := st.blk
    let x := fieldOf b f
    let done (t : Blk) : Prop := (fieldOf t f).bq = r ∧ (fieldOf t f).cur = g ∧ (fieldOf t f).tags = (g :: x.tags).take 80
    (x.bq = [] ∨ clocked b f = false → Becomes st (.fieldSlotBoundary f) b) ∧
    (x.bq = g :: r → clocked b f = true →
      Reaches st (.fieldSlotBoundary f) (fun t => done t ∧ ∀ k, k < 4 → bit g.relF f = true → bit g.relT k = true →
        bit (tmrCtl t f k) 0 = true ∧ reg t (aF f (0x143 + 4 * k)) = 0) ∧
      (x.fenEff = false → fenBit b f = true → x.pipe = [] → levelOf b f = 8 → 1 ≤ alignA b →
        Reaches st (.fenTakeEffect f) (fun t => done t ∧ (fieldOf t f).fenEff = true ∧ (fieldOf t f).k0 = g.seq ∧
          (fieldOf t f).pos = fld (reg b (aF f 0x003)) 8 3 % max 1 (memberCount b f) ∧ (fieldOf t f).ridx = 0 ∧
          (fieldOf t f).abuf = [] ∧ (fieldOf t f).marks = [])) ∧
      (x.fenDrop = true → fenBit b f = false ∨ x.pipe ≠ [] →
        Reaches st (.fenClearTakeEffect f) (fun t => done t ∧ (fieldOf t f).fenEff = false ∧ (fieldOf t f).abuf = [])) ∧
      (x.fenDrop = true → fenBit b f = true → x.pipe = [] → levelOf b f = 8 → 1 ≤ alignA b →
        Reaches st (.fenClearTakeEffect f) (fun t => done t ∧ (fieldOf t f).fenEff = true ∧ (fieldOf t f).k0 = g.seq)) ∧
      (∀ y, x.swaps = [y] → swapWaits b f y.kind = true → x.pipe = [] → x.fenEff = false → 1 ≤ alignA b →
        let swapped (a i : Nat) (t : Blk) : Prop :=
          done t ∧ (fieldOf t f).swaps = [] ∧ bit (reg t (aF f a)) i = !(bit (reg b (aF f a)) i)
        (y.kind = 0 → Reaches st (.channelMapSwap f) (swapped 0x041 1)) ∧
        (y.kind = 1 → Reaches st (.windowTableSwap f) (swapped 0x081 0)) ∧
        (y.kind = 3 → Reaches st (.safedecSwap f) (swapped 0x001 0)) ∧
        (y.kind = 4 → Reaches st (.gainPageSwap f) (swapped 0x041 2)))) ∧
    (x.fenEff = true ∨ fenBit b f = false ∨ x.pipe ≠ [] ∨ levelOf b f ≠ 8 → Becomes st (.fenTakeEffect f) b) ∧
    (x.fenDrop = false → Becomes st (.fenClearTakeEffect f) b)

/-- R481, R495: a mode request is rejected while PEND reads 1 or where the table has no such row; else it is accepted: it starts a drain,
the entry to WATCH, or enters the mode at once, with PREV the mode left. -/
def Obligations.ModeRequests : Prop :=
  ∀ (st : State) (m : Master) (c : Instr) (t : Nat), Awake st.blk →
    (c, t) ∈ [(.modeReqConfig m, 2), (.modeReqLinkup m, 3), (.modeReqFreerun m, 4), (.modeReqAcquire m, 5), (.modeReqWatch m, 9),
      (.modeReqSelftest m, 10), (.modeReqSafestop m, 11)] →
    let b := st.blk
    let rows : List (Nat × Nat) := [(2, 3), (2, 4), (2, 5), (2, 10), (3, 2), (3, 4), (3, 5), (4, 5), (4, 2), (4, 3), (4, 9),
      (5, 4), (5, 2), (5, 3), (5, 9), (6, 5), (6, 2), (6, 3), (6, 9), (11, 2)] ++ [2, 3, 4, 5, 6, 7, 8, 9, 10].map (fun o => (o, 11))
    let ok : Prop := (modeOf b, t) ∈ rows ∧ (t = 10 → ∀ e, e < nEngines b → runBit b e = false) ∧
      (modeOf b = 11 → b.md.killLow = false ∧ ramping b = false ∧ ∀ f, f < nFields b → (fieldOf b f).hot = 0)
    let drains : Prop := modeOf b ∈ [4, 5, 6] ∧ t ∈ [2, 3, 9] ∧ slotsActive b = true
    let entered (d : Blk) : Prop := modeOf d = t ∧ fld (reg d (aB 0x000)) 4 4 = modeOf b
    (modePend b = true → Becomes st c (orReg (aB 0x003) 1 b)) ∧
    (modePend b = false → ¬ (modeOf b = 9 ∧ t = wakeMode b) → ¬ ok → Becomes st c (orReg (aB 0x003) 1 b)) ∧
    (modePend b = false → ¬ (modeOf b = 9 ∧ t = wakeMode b) → ok →
      (drains → Becomes st c (onMd (fun x => { x with drainTo := some t, drainWait := true }) b)) ∧
      (¬ drains → t = 9 → Becomes st c (onMd (fun x => { x with watchEntry := true }) b)) ∧
      (¬ drains → t ≠ 9 → t ≠ 11 → Reaches st c entered) ∧
      (t = 5 → Reaches st c (fun d => entered d ∧ bit (reg d (aB 0x041)) 1 = true)) ∧
      (t = 11 → Reaches st c (fun d => entered d ∧ d.md.drainTo = none ∧
        ∀ f, f < nFields b → fenBit d f = false ∧ targetOf d f = 0))) ∧
    (modePend b = false → modeOf b = 9 → t = wakeMode b → Becomes st c (onMd (fun x => { x with wakeReq := true }) b)) ∧
    (modePend b = false → modeOf b = 9 → Becomes st (.modeReqWake m) (onMd (fun x => { x with wakeReq := true }) b)) ∧
    (modeOf b ≠ 9 → Becomes st (.modeReqWake m) b)

/-- R362, R390, R481, R484 to R488, R577: a drain ends in the mode asked for; HOLD, WATCH and SELFTEST are entered and left as their rules
say, each with what it does to the clocks, the counters, the memories and the field levels. -/
def Obligations.ModeTransitions : Prop :=
  ∀ st : State, st.blk.md.off = false →
    let b := st.blk
    let entered (o n : Nat) (d : Blk) : Prop := modeOf d = n ∧ fld (reg d (aB 0x000)) 4 4 = o
    (∀ t, b.md.drainTo = some t → t ∈ [2, 3, 9] → modeOf b = 7 →
      (anyBusy b = true → Becomes st .drainComplete b) ∧
      (anyBusy b = false → t ≠ 9 → Reaches st .drainComplete (fun d => entered 7 t d ∧ d.md.drainTo = none)) ∧
      (anyBusy b = false → t = 9 → Becomes st .drainComplete
        (onMd (fun m => { m with drainTo := none, drainWait := false, watchEntry := true }) b))) ∧
    (b.md.watchEntry = true → slotsActive b = false → Reaches st .watchEntryComplete (fun d => entered (modeOf b) 9 d ∧
      d.md.watchEntry = false ∧ d.md.sleep = 0 ∧ ∀ f, f < 8 → (fieldOf d f).clk = false ∧
        (powered b f = true → (fieldOf d f).sinter = Sinter.cold))) ∧
    (b.md.watchEntry = false ∨ slotsActive b = true → Becomes st .watchEntryComplete b) ∧
    (b.md.wakeReq = true → (∀ f ∈ wakeFields b, powered b f = true) → modeOf b = 9 → ∀ ticks, ticks < 2 ^ 28 → b.md.sleep ≤ ticks →
      let m := ticks * (regPair b (aB 0x04C)).toNat / 1024
      Reaches st (.wake ticks) (fun d => entered 9 (wakeMode b) d ∧ d.md.wakeReq = false ∧ d.md.sleep = ticks ∧
        d.tb.slot = BitVec.ofNat 14 ((b.tb.slot.toNat + m) % b.tb.spsEff) ∧
        d.tb.sweep = b.tb.sweep + BitVec.ofNat 28 ((b.tb.slot.toNat + m) / b.tb.spsEff) ∧
        d.tb.runtime = b.tb.runtime + BitVec.ofNat 28 m ∧
        (∀ f, f < 8 → (fieldOf d f).clk = true) ∧ ∀ f ∈ wakeFields b, targetOf d f = 8)) ∧
    (b.md.wakeReq = true → (∀ f ∈ wakeFields b, powered b f = true) → modeOf b ≠ 9 → ∀ ticks, Reaches st (.wake ticks) (fun d =>
      modeOf d = modeOf b ∧ d.md.wakeReq = false ∧ ∀ f ∈ wakeFields b, targetOf d f = 8)) ∧
    (b.md.wakeReq = true → (∃ f ∈ wakeFields b, powered b f = false) → ∀ ticks, Reaches st (.wake ticks) (fun d =>
      ∀ f ∈ wakeFields b, (fieldOf b f).pwr = .off → (fieldOf d f).pwr = .rising ∧ bit d.pswReq f = true)) ∧
    (b.md.wakeReq = false → ∀ ticks, Becomes st (.wake ticks) b) ∧
    (modeOf b = 9 → Becomes st .sleepCountSaturate (orReg (aB 0x1C7) 2 (onMd (fun m => { m with sleep := 2 ^ 28 - 1 }) b))) ∧
    (modeOf b ≠ 9 → Becomes st .sleepCountSaturate b) ∧
    (modeOf b = 10 → Reaches st .selftestComplete (fun d => entered 10 2 d ∧
      (∀ f, f < nFields b → bit (reg d (aB 0x00A)) f = (powered b f && fieldFails b f)) ∧ bit (reg d (aB 0x00A)) 13 = true ∧
      bit (reg d (aB 0x00A)) 8 = stuckIn b 0x210000 0x212000 ∧
      (∀ i, i < 0x2000 → rawWord d (0x210000 + i) = 0) ∧
      ∀ f i, powered b f = true → i < 0x10000 → rawWord d (f * 0x10000 + i) = 0)) ∧
    (modeOf b ≠ 10 → Becomes st .selftestComplete b) ∧
    (frozen b 8 = true → 2 ≤ modeOf b → modeOf b ≤ 7 →
      Reaches st .holdEntry (fun d => entered (modeOf b) 8 d ∧ d.md.holdFrom = modeOf b)) ∧
    (frozen b 8 = false → Becomes st .holdEntry b) ∧
    (modeOf b = 8 → frozen b 8 = false → b.md.holdFrom < 8 →
      Reaches st .holdExit (entered 8 (if b.md.holdFrom = 6 then 5 else b.md.holdFrom))) ∧
    (modeOf b ≠ 8 ∨ frozen b 8 = true → Becomes st .holdExit b)

/-- R481, R490, R491, R493, R502, R553: a warm reset, however it is asked for, starts outside OFF and COLD as R490 and R493 say; its end
clears PEND; a reset write in COLD, or by a debugger below FULL, does nothing but set the rejection flag. The model's
choice: committed stores stay in their buffers until the sequence ends (log entry 24). -/
def Obligations.WarmResets : Prop :=
  ∀ (st : State) (m : Master), st.blk.md.off = false →
    let b := st.blk
    (modeOf b ≠ 0 → modeOf b ≠ 1 →
      (∀ cause, Reaches st (.warmReset cause) (WarmStarted cause b)) ∧
      Reaches st .wresetN (WarmStarted .pin b) ∧
      (b.md.warm = false → Reaches st (.rstctlWarm m) (WarmStarted .software b)) ∧
      (b.md.warm = false → b.auth.level = 2 → Reaches st (.dbgResetWarm .debug) (WarmStarted .debug b))) ∧
    (modeOf b = 0 ∨ modeOf b = 1 → Becomes st .wresetN b ∧ ∀ cause, Becomes st (.warmReset cause) b) ∧
    (modeOf b = 1 → b.md.warm = false → Becomes st (.rstctlWarm m) (orReg (aB 0x003) 1 b)) ∧
    (m ≠ .debug ∨ b.auth.level ≠ 2 → Becomes st (.dbgResetWarm m) b ∧ Becomes st (.dbgResetCold m) b) ∧
    (b.md.warm = true → (∀ e, (engOf b e).sbuf = []) → b.host.htq = [] →
      Becomes st .warmResetComplete (onMd (fun x => { x with warm := false }) b)) ∧
    (b.md.warm = false → Becomes st .warmResetComplete b) ∧
    (b.md.warm = true → Becomes st (.rstctlWarm m) b ∧ Becomes st (.rstctlCold m) b)

/-- R410, R481, R490, R491, R501, R504, R505, R553: a cold reset returns everything but the debug island to its cold state; PORESET_N
holds the block in OFF and starts COLD when released; DPOR_N resets the debug island alone. -/
def Obligations.ColdResets : Prop :=
  ∀ (st : State) (m : Master),
    let b := st.blk
    (b.md.off = false →
      (∀ cause, cause ≠ .pin → Reaches st (.coldReset cause) (ColdStarted cause b)) ∧
      (b.md.warm = false → Reaches st (.rstctlCold m) (ColdStarted .software b)) ∧
      (b.md.warm = false → b.auth.level = 2 → Reaches st (.dbgResetCold .debug) (ColdStarted .debug b)) ∧
      Becomes st .poresetRelease b) ∧
    (b.md.off = true → Reaches st .poresetRelease (ColdStarted .pin b)) ∧
    Reaches st .poresetAssert (fun t => t.md.off = true ∧ modeOf t = 0 ∧ t.mem = [] ∧ t.host = HostP.cold ∧
      (∀ f, f < 8 → bit t.pswReq f = decide (f < nFields b)) ∧ ∀ e, e < 64 → engOf t e = Engine.cold) ∧
    (∃ t, exec .dporN st = .next t ∧ t.pending = st.pending ∧ t.blk.auth = Auth.dpor ∧ t.blk.tap = Tap.dpor ∧
      (∀ a, reg t.blk a = if aB 0x300 ≤ a ∧ a < aB 0x400 then coldReg a else reg b a) ∧
      t.blk = { b with auth := t.blk.auth, tap := t.blk.tap, regs := t.blk.regs })

/-- R388, R391 to R393, R410, R473, R481, R483, R492, R494, R501, R503, R506, R507: bring-up ends the clear and the fuse load and leaves COLD
for CONFIG, or for SAFESTOP with KILL_N low; FPWR, PSW_REQ and PSW_ACK take a field down and up through its field-wake reset. -/
def Obligations.BringUpAndFieldPower : Prop :=
  ∀ (st : State) (m : Master) (c : BCell), st.blk.md.off = false →
    let b := st.blk
    (∀ f, f < 8 → (fieldOf b f).pwr = .on ∨ (fieldOf b f).pwr = .waking →
      Reaches st .memoryClearComplete (fun t => (fieldOf t f).clearing = false ∧ (fieldOf t f).pwr = .on ∧
        ((∀ g, (fieldOf b g).pwr ≠ .rising) → t.md.clearWait = false ∧ t.md.fabClear = false))) ∧
    (modeOf b = 1 → b.md.fuseWait = true →
      (∀ record, fuseValid record = true → Reaches st (.fuseLoadComplete true record) (fun t => t.md.fuseWait = false ∧
        reg t (aB 0x009) = 3 ∧ reg t (aB 0x12A) = 0 ∧ reg t (aB 0x145) = (nth absentCell record 43).v ∧
        ∀ i, i < 42 → reg t (aB (0x100 + i)) = (nth absentCell record (i + 1)).v)) ∧
      (∀ present record, present = false ∨ fuseValid record = false → Reaches st (.fuseLoadComplete present record) (fun t =>
        t.md.fuseWait = false ∧ reg t (aB 0x009) = (if present then 1 else 0) ∧ reg t (aB 0x12A) = 1 ∧ reg t (aB 0x145) = 0x3FFF ∧
        ∀ i, i < 42 → reg t (aB (0x100 + i)) = coldReg (aB (0x100 + i)))) ∧
      Reaches st (.fuseTimeout true) (fun t => t.md.fuseWait = false ∧ reg t (aB 0x009) = 5 ∧ reg t (aB 0x12A) = 1) ∧
      Becomes st (.fuseTimeout false) b) ∧
    (modeOf b = 1 → b.md.fuseWait = false → b.md.clearWait = false →
      Reaches st .coldComplete (fun t => modeOf t = if b.md.killPend ∨ b.md.killLow then 11 else 2)) ∧
    (b.md.fuseWait = true ∨ b.md.clearWait = true → Becomes st .coldComplete b) ∧
    (modeOf b ≠ 1 → Reaches st (.killN true) (fun t => modeOf t = 11 ∧ t.md.killLow = true ∧ bit (reg t (aB 0x005)) 6 = true ∧
      bit (reg t (aB 0x0C1)) 5 = true ∧ ∀ f, f < nFields b → levelOf t f = 0 ∧ fenBit t f = false)) ∧
    (modeOf b = 1 → Becomes st (.killN true) (onMd (fun x => { x with killLow := true, killPend := true }) b)) ∧
    Becomes st (.killN false) (onMd (fun x => { x with killLow := false }) b) ∧
    (b.md.warm = false → c.p = false → ∀ f, f < nFields b →
      (bit (reg b (aB 0x007)) f = false → bit c.v f = true → (fieldOf b f).pwr = .off → Reaches st (.fpwrOn m c) (fun t =>
        bit (reg t (aB 0x007)) f = true ∧ (fieldOf t f).pwr = .rising ∧ bit t.pswReq f = true)) ∧
      (bit (reg b (aB 0x007)) f = true → bit c.v f = false → Reaches st (.fpwrOff m c) (fun t =>
        bit (reg t (aB 0x007)) f = false ∧ targetOf t f = 0 ∧
        (powered b f = true → levelOf b f = 0 → modeOf b ≠ 9 → b.md.wakeReq = false → fenBit b f = false → busyOf b f = false →
          bit t.pswReq f = false)))) ∧
    (∀ f, f < 8 → (fieldOf b f).pwr = .rising →
      (modeOf b ≠ 1 → Reaches st (.pswAckRise f) (fun t => (fieldOf t f).pwr = .waking ∧ (fieldOf t f).clearing = true ∧ levelOf t f = 0 ∧
        (∀ k, k < 8 → engOf t (8 * f + k) = Engine.cold) ∧ (∀ i, i < 0x10000 → rawWord t (f * 0x10000 + i) = 0) ∧
        ∀ off, off < 0x1000 → (f = 0 → off ≠ 0x042) → reg t (aF f off) = coldReg (aF f off))) ∧
      (modeOf b = 1 → Becomes st (.pswAckRise f) (onField f (fun g => { g with pwr := .on }) b))) ∧
    (∀ f, f < nFields b → bit b.pswReq f = false → (fieldOf b f).pwr ≠ .off → Reaches st (.pswAckFall f) (fun t =>
      (fieldOf t f).pwr = (if bit (reg b (aB 0x007)) f then .rising else .off) ∧ bit t.pswReq f = bit (reg b (aB 0x007)) f ∧
      (∀ k, k < 8 → engOf t (8 * f + k) = Engine.cold) ∧ ∀ i, i < 0x10000 → rawWord t (f * 0x10000 + i) = 0)) ∧
    (∀ f, bit b.pswReq f = true → Becomes st (.pswAckFall f) b)

/-! Slots, events, timers and the governor (chapters 1, 4, 5, 11 and 12). -/

/-- R30 to R33, R39, R43, R47, R48, R537: C0's writes of DECISION and PRIMQ reach the slot it holds, and any other is dropped with its
flag; dispatch starts C0 of the member on the oldest waiting slot whose member can take it, the sequences of dispatch and switch running
as the ROM has them; an overdue slot is settled with SAFEDEC and its C0 abandoned, a locked sequence of it breaking. -/
def Obligations.SlotsAreDispatchedAndSettled : Prop :=
  ∀ (st : State) (m : Master) (f : Nat) (c : BCell), f < 8 →
    let b := st.blk
    let mine := (slotOfMaster b f m).bind (recOf b f)
    (Awake b → clocked b f = true →
      (∀ r, mine = some r → r.settled = none →
        Becomes st (.decisionWrite m f c)
          (onRec f r.seq (fun x => if c.p then { x with marked := true } else { x with decision := some c.v }) b) ∧
        (r.prims.length < 32 → Becomes st (.primqWrite m f c) (onRec f r.seq (fun x => { x with prims := x.prims ++ [c] }) b)) ∧
        (32 ≤ r.prims.length → Becomes st (.primqWrite m f c) (count (aF f 0x00D)
          (onRec f r.seq (fun x => { x with prims := upd (fun y => { y with p := true }) x.prims 31 }) b)))) ∧
      (c.p = false → (∀ r, mine = some r → r.settled ≠ none) →
        Becomes st (.decisionWrite m f c) (orReg (aF f 0x001) 0x04 b) ∧
        Becomes st (.primqWrite m f c) (orReg (aF f 0x001) 0x08 b))) ∧
    (b.md.off = false → (∀ r ∈ (fieldOf b f).pipe, isLate b f r = false) →
      Becomes st (.overrun f) b ∧
      (waitingSlot b f = none → Becomes st (.dispatch f) b) ∧
      (∀ r k, waitingSlot b f = some r → r.member = some k → k < 8 →
        let e := 8 * f + k
        ((∀ n q, micro { b with free := n } f (seqEntry q) = .fine) → (engOf b e).lops = [] →
          Reaches st (.dispatch f) (fun t => (engOf t e).run = some 0 ∧ (engOf t e).slot = some r.seq ∧
          (ctxOf t e 0).data = [scP (r.slot.setWidth 28) r.pois, sc (recbase b f e r)] ∧ (ctxOf t e 0).ret = [] ∧
          (ctxOf t e 0).pc = slotEntry b f e ∧ (ctxOf t e 0).ps = reg b (aE e 0x09) ∧ (ctxOf t e 0).state = 1 ∧
          (ctxOf t e 0).spois = r.pois ∧ (ctxOf t e 0).dsp = (ctxOf b e 0).dbase ∧
          (fieldOf t f).pipe = (fieldOf b f).pipe.map (fun x => if x.seq = r.seq then { x with dispatched := true } else x) ∧
          (∀ i j, (i ≠ e ∨ j ≠ 0) → Woken (ctxOf b i j) (ctxOf t i j)))))) ∧
    (b.md.off = false → ∀ r l1 l2, (fieldOf b f).pipe = l1 ++ r :: l2 → isLate b f r = true →
      (∀ x ∈ l1 ++ l2, isLate b f x = false ∧ x.seq ≠ r.seq) →
      Reaches st (.overrun f) (fun t =>
        (fieldOf t f).pipe = l1 ++ { r with prims := [], settled := some { cell := safedec b f r, reason := 1 } } :: l2 ∧
        t.tb.decq = b.tb.decq ++ [{ f := f, seq := r.seq, slot := r.slot, code := (safedec b f r).extractLsb' 0 7, subst := true }] ∧
        (reg t (aF f 0x00A)).toNat = min 16383 ((reg b (aF f 0x00A)).toNat + 1) ∧ reg t (aF f 0x00E) = r.slot ∧
        bit (reg t (aF f 0x001)) 4 = true ∧
        ∀ k, r.member = some k → k < 8 → (engOf b (8 * f + k)).slot = some r.seq → (engOf t (8 * f + k)).slot = none ∧
          (engOf t (8 * f + k)).sbuf = (engOf b (8 * f + k)).sbuf.filter (fun w => !(decide (w.seq = some r.seq))) ∧
          ((engOf b (8 * f + k)).run ≠ some 4 → ∀ x, lockOf b (8 * f + k) 0 = some x →
            lockOf t (8 * f + k) 0 = none ∧ (x.broken = false → bit (reg t (aE (8 * f + k) 0x31)) 2 = true))))

/-- R133, R144 to R149, R151, R152, R160: a released word enters the intake FIFO whole, or is dropped and poisons the slot being mapped;
then one sample is mapped: a masked one is counted and discarded, a poisoned one and one whose table entry cannot be read poison the
slot, and any other is conditioned, saturated, suppressed or tested by the matcher in its tile, with its border copies; a border copy is
tested in the slot it belongs to, and dropped after that. The model's choice: a copy that comes before the neighbour has begun its slot
waits (log entry 111). -/
def Obligations.SamplesAreMapped : Prop :=
  ∀ (st : State) (f rel : Nat), st.blk.md.off = false → f < 8 →
    let b := st.blk
    let g := fieldOf b f
    let space := 0x100000 + f * 0x20000
    (clocked b f = false → Becomes st (.mapSample f rel) b ∧ Becomes st (.borderCopy f) b) ∧
    (clocked b f = true →
    (∀ w ws, g.relq = w :: ws →
      let d := onField f (fun x => { x with relq := ws }) b
      (fifoSize g.fifo + fifoSize w ≤ 512 → Becomes st (.mapSample f 1) (mapHead f
        (peak (aF f 0x046) (fifoSize g.fifo + fifoSize w) (onField f (fun x => { x with fifo := x.fifo ++ w }) d)))) ∧
      (512 < fifoSize g.fifo + fifoSize w → openRec b f = none → Becomes st (.mapSample f 1) d) ∧
      (∀ r, 512 < fifoSize g.fifo + fifoSize w → openRec b f = some r →
        Becomes st (.mapSample f 1) (mapHead f (poisonMapped f r 4 0x04C w.length 435 d)))) ∧
    Becomes st (.mapSample f rel) (mapHead f (times (releaseWord f) (min 4 rel) b)) ∧
    (g.fifo = [] ∨ openRec b f = none → mapHead f b = b) ∧
    (∀ x xs r, g.relq = [] → g.fifo = x :: xs → openRec b f = some r →
      let d := onField f (fun y => { y with fifo := xs }) b
      let told := b2n r.msel * 0x10000 + 3 * x.ch
      let tel := rdMem (.chanMap f told) 8 d
      let ped := rdMem (.chanMap f (told + 1)) 8 tel.2
      let gan := rdMem (.chanMap f (b2n r.gsel * 0x10000 + 3 * x.ch + 2)) 8 ped.2
      let kept : Prop := r.masks.contains x.ch = false ∧ x.p = false
      (r.masks.contains x.ch = true → Becomes st (.mapSample f rel) (count (aF f 0x054) d)) ∧
      (r.masks.contains x.ch = false → x.p = true → Becomes st (.mapSample f rel) (poisonMapped f r 9 0x051 1 440 d)) ∧
      (kept → tel.1.p = true → Becomes st (.mapSample f rel) (poisonMapped f r 8 0x050 1 439 tel.2)) ∧
      (kept → tel.1.p = false → tel.1.v = 0x3FFF → Becomes st (.mapSample f rel) tel.2) ∧
      (kept → tel.1.p = false → tel.1.v ≠ 0x3FFF → ped.1.p = true ∨ gan.1.p = true →
        Becomes st (.mapSample f rel) (poisonMapped f r 8 0x050 1 439 gan.2)) ∧
      (kept → tel.1.p = false → tel.1.v ≠ 0x3FFF → ped.1.p = false → gan.1.p = false →
        let raw := Int.tdiv (((x.amp.toNat : Int) - (ped.1.v.toNat : Int)) * (gan.1.v.toNat : Int)) 4096
        let out := max (-8192) (min 8191 raw)
        let c := if raw = out then gan.2 else noteSource f 441 (orReg (aF f 0x041) 0x20 (count (aF f 0x052) gan.2))
        let hit := matchHit f r.seq tel.1.v.toNat x.u out c
        let n := nFields b
        let u := tel.1.v.toNat % 128
        let v := tel.1.v.toNat / 128
        let w := fld r.mapctl 10 4
        let copy (dst tile : Nat) : Blk := if tile ≠ 16383 ∧ alignOn hit dst = true then
          onField dst (fun y => { y with border := y.border ++ [{ seq := r.seq, tile := tile, out := out, u := x.u }] }) hit else hit
        (zsApplies r x = true → out < r.zs.toInt → Becomes st (.mapSample f rel) c) ∧
        (zsApplies r x = false ∨ r.zs.toInt ≤ out →
          (bit r.mapctl 9 = true → w ≠ 0 → 128 ≤ u + w → Becomes st (.mapSample f rel) (copy ((f + 1) % n) (v * 128 + (u + w - 128)))) ∧
          (bit r.mapctl 8 = true → u < w → Becomes st (.mapSample f rel) (copy ((f + n - 1) % n) (v * 128 + (u + 128 - w)))) ∧
          ((bit r.mapctl 9 = false ∨ w = 0 ∨ u + w < 128) → (bit r.mapctl 8 = false ∨ w ≤ u) → Becomes st (.mapSample f rel) hit))) ∧
      (∀ v : BitVec 14, g.clearing = false → rawWord b (space + told) = storedWord v → tel = (clean v, d))) ∧
    (g.border.find? (fun c => decide (c.seq + alignA b ≤ g.cur.seq)) = none → Becomes st (.borderCopy f) b) ∧
    (∀ c, g.border.find? (fun c => decide (c.seq + alignA b ≤ g.cur.seq)) = some c →
      let d := onField f (fun x => { x with border := x.border.erase c }) b
      (g.fenEff = false ∨ c.seq < g.k0 → Becomes st (.borderCopy f) d) ∧
      (g.fenEff = true → g.k0 ≤ c.seq → (∀ r, openRec b f = some r → r.seq = c.seq → Becomes st (.borderCopy f)
        (matchHit f c.seq c.tile c.u c.out d)) ∧
        ((∀ r, openRec b f = some r → r.seq ≠ c.seq) → Becomes st (.borderCopy f) (copyLate f c d) ∧
          Reaches st (.borderCopy f) (fun t => (reg t (aF f 0x053)).toNat = min 16383 ((reg b (aF f 0x053)).toNat + 1))))))

/-- R335, R339 to R341, R346, R347, R360, R361: a doorbell raises its source, which collects raises until its entry's NEED or TIME makes it
pending, or sets REPEND while it is active; one to a field that is stopped or off goes to the fumarole; a completion by the claimer moves
the source on, and any other is counted. The controller's read of the source's entry is counted where it finds an error (log entry 116),
which `readEnt` says. -/
def Obligations.EventSourcesAndTimers : Prop :=
  ∀ (st : State) (m : Master) (f k : Nat) (c : BCell), Awake st.blk → f < 8 → k < 8 →
    let b := st.blk
    let v := c.v
    let s := fld v 0 9
    let x := srcOf (fieldOf b f) s
    let lost (d : Blk) : Blk := orReg (aF f 0x102) 0x200 (count (aF f 0x105) d)
    let now (y : SrcEnt) (z : Src) : Src := if y.need ≤ z.r ∨ (y.time ≠ 0 ∧ 0 < z.r ∧ y.time ≤ z.g) then
      (match z.st with | .accum => { z with st := .pending } | .active => { z with repend := true } | .idle => z | .pending => z) else z
    (clocked b f = false → f < nFields b → c.p = false → s ≠ 0 →
      let off := decide ((fieldOf b f).pwr ≠ .on)
      (watchers b f s = [] → Becomes st (.doorbellWrite m f c) (count (aB (if off then 0x1C4 else 0x1C3)) b)) ∧
      (watchers b f s ≠ [] → Reaches st (.doorbellWrite m f c) (fun t => t.md.wakeReq = true ∧
        (∀ j ∈ watchers b f s, bit (reg t (aB (0x1C0 + j / 14))) (j % 14) = true) ∧
        t.replay = if off = true ∨ (f, s) ∈ b.replay then b.replay else b.replay ++ [(f, s)]))) ∧
    (c.p = false → s = 0 ∨ nFields b ≤ f → Becomes st (.doorbellWrite m f c) b) ∧
    (clocked b f = false → c.p = true → Becomes st (.doorbellWrite m f c) b) ∧
    (clocked b f = false → Becomes st (.evdoneWrite m f k c) b) ∧
    (clocked b f = true → c.p = false →
      (s ≠ 0 → ∀ c0 c1 : BitVec 14, (fieldOf b f).clearing = false →
        rawWord b (0x220000 + f * 0x400 + 2 * s) = storedWord c0 → rawWord b (0x220000 + f * 0x400 + 2 * s + 1) = storedWord c1 →
        (bit c0 13 = false → Becomes st (.doorbellWrite m f c) b) ∧
        (bit c0 13 = true → Becomes st (.doorbellWrite m f c) (refreshLines f (putSrc f s
          (now (srcEntOf c0 c1) (if x.st = .idle then { x with st := .accum, r := min (x.r + 1) 255, g := 0 } else { x with r := min (x.r + 1) 255 })) b)))) ∧
      (x.st = .active → x.claimer = k → isOdd b (8 * f + k) = false →
        (∀ y, srcLive b f s = some y → Becomes st (.evdoneWrite m f k c) (refreshLines f (putSrc f s
          (if x.repend then now y { x with st := .pending, repend := false, claimer := 0 }
           else if 0 < x.r then now y { x with st := .accum, claimer := 0 } else now y Src.idle) (readEnt f s b)))) ∧
        (srcLive b f s = none → Becomes st (.evdoneWrite m f k c) (refreshLines f (putSrc f s Src.idle (readEnt f s b))))) ∧
      (x.st ≠ .active ∨ x.claimer ≠ k ∨ isOdd b (8 * f + k) = true →
        Becomes st (.evdoneWrite m f k c) (orReg (aF f 0x102) 0x100 (count (aF f 0x104) b)))) ∧
    (clocked b f = true → c.p = true → (∀ e, Becomes st (.doorbellWrite (.engine e) f c) b) ∧
      Becomes st (.doorbellWrite .host f c) (orReg (aB 0x01B) 4 (lost b)) ∧ Becomes st (.doorbellWrite .steward f c) (lost b) ∧
      Becomes st (.doorbellWrite .linkDma f c) (lost b) ∧ Becomes st (.doorbellWrite .debug f c) (lost b))

/-- R76 to R81, R341, R381, R382: TMRkCTL enables a timer from zero; a tick counts and ages the sources, and at PERIOD wraps and fires;
a deadline write arms its timer, and at the boundary that takes it to 0 it expires. -/
def Obligations.TimersAndDeadlines : Prop :=
  ∀ (st : State) (m : Master) (f k : Nat) (c : BCell), Awake st.blk → f < 8 → k < 4 → clocked st.blk f = true →
    let b := st.blk
    let v := c.v
    let a := aF f (0x140 + 4 * k)
    let zero (b : Blk) : Blk := onField f (fun g => { g with pre := upd (fun _ => 0) g.pre k }) b
    let per := (reg b (aF f (0x142 + 4 * k))).toNat
    let cnt := (reg b (aF f (0x143 + 4 * k))).toNat
    let wrote := setReg a ((reg b a &&& ~~~(7 ||| (v &&& 8))) ||| (v &&& 7)) b
    (c.p = false → bit v 0 = true →
      (bit (reg b a) 0 = true → Becomes st (.tmrEnable m f k c) wrote) ∧
      (bit (reg b a) 0 = false → Becomes st (.tmrEnable m f k c) (zero (setReg (aF f (0x143 + 4 * k)) 0 wrote)))) ∧
    (timerRuns b f k = false → Becomes st (.timerTick f k) b ∧ Becomes st (.timerFire f k) b) ∧
    (timerRuns b f k = true → bit (reg b a) 2 = true →
      (cnt < per → Becomes st (.timerTick f k) (ageSources f k (setReg (aF f (0x143 + 4 * k)) (BitVec.ofNat 14 (cnt + 1)) (zero b)))) ∧
      (cnt < per → Becomes st (.timerFire f k) b) ∧
      (per = cnt → bit (reg b a) 1 = false →
        let d := raise f (464 + k) (ageSources f k (setReg (aF f (0x143 + 4 * k)) 0 (zero b)))
        Becomes st (.timerTick f k) d ∧ Becomes st (.timerFire f k) d) ∧
      (per ≤ cnt → Reaches st (.timerFire f k) (fun t => reg t (aF f (0x143 + 4 * k)) = 0 ∧ (bit (reg b a) 1 = true → bit (reg t a) 0 = false) ∧
        (per < cnt → bit (reg t a) 3 = true)))) ∧
    (timerRuns b f k = true → bit (reg b a) 2 = false → (reg b (aF f (0x141 + 4 * k))).toNat ≤ nth 0 (fieldOf b f).pre k →
      exec (.timerTick f k) st = exec (.fieldSlotBoundary f) st) ∧
    (∀ s y, s < 512 → srcLive b f s = some y → y.tsel = k → timerRuns b f k = true → bit (reg b a) 2 = true → y.time ≠ 0 →
      let x := srcOf (fieldOf b f) s
      x.st = .accum → 0 < x.r → y.time ≤ x.g + 1 → y.time < 64 →
      Reaches st (.geyserAgePending f s) (fun t => (srcOf (fieldOf t f) s).st = .pending)) ∧
    (∀ e n, e / 8 = f → isOdd b e = false → 1 ≤ n → n ≤ 3 →
      (c.p = false → Becomes st (.deadlineWrite m e n c)
        (promote e (onEng e (fun x => { x with dlDone := upd (fun _ => false) x.dlDone (n - 1) })
          (orReg (aE e 0x27) (1 <<< (n - 1)) (setReg (aE e (0x22 + n)) v (endStarved f b)))))) ∧
      (∀ g r, (fieldOf b f).bq = g :: r → (fieldOf b f).pipe = [] → (fieldOf b f).fenEff = false → 1 ≤ alignA b →
        deadlineRuns b e n = true → (reg b (aE e (0x22 + n))).toNat ≤ 1 → nth true (engOf b e).dlDone (n - 1) = false →
        Reaches st (.deadlineExpire e n) (fun t => reg t (aE e (0x22 + n)) = 0 ∧ nth true (engOf t e).dlDone (n - 1) = true ∧
          ((engOf b e).halted = false → bit (reg t (aE e 0x27)) (5 + n) = true) ∧
          ((engOf b e).halted = true → bit (reg t (aE e 0x31)) 4 = true))))

/-- R369, R372, R373, R377 to R380, R383, R386, R414: the ledger's balance is filled and its essential spend cleared; a governor tick takes the
temperatures; a window ends with a new K; one field steps one level; the bucket leaks; an idle cycle is debited and a turn ends. The
model's choice: LEDSTARVE counts the field cycles that the engines' commands are (log entry 119). -/
def Obligations.LedgerAndGovernor : Prop :=
  ∀ (st : State) (m : Master) (f e : Nat), Awake st.blk → f < 8 → e < 64 →
    let b := st.blk
    (clocked b f = true →
      Becomes st (.ledctlFill m f) (onField f (fun g => { g with bal := ((regPair b (aF f 0x182)).toNat : Int) }) (endStarved f b)) ∧
      Reaches st (.ledctlEclr m f) (fun t => (fieldOf t f).esp = 0 ∧ (fieldOf t f).esusp = false ∧ (fieldOf t f).bal = (fieldOf b f).bal ∧
        ∀ k, k < 8 → reg t (aE (8 * f + k) 0x28) = 0)) ∧
    (∀ g r, (fieldOf b f).bq = g :: r → clocked b f = true → leakDue b f = true → (fieldOf b f).pipe = [] → (fieldOf b f).fenEff = false →
      (fieldOf b f).due = [] → (fieldOf b f).wrec = [] → (fieldOf b f).wpeer = [] → 1 ≤ alignA b → bit g.relF f = false → (∀ k, k < 4 → timerRuns b f k = false) → (∀ k n, k < 8 → 1 ≤ n → n ≤ 3 → deadlineRuns b (8 * f + k) n = false) →
      Reaches st (.bucketLeak f) (fun t => (fieldOf t f).leak = 0 ∧ (fieldOf t f).bucket = (fieldOf b f).bucket - 1)) ∧
    (leakDue b f = false → Becomes st (.bucketLeak f) b) ∧
    (∀ temps isense, Reaches st (.govTick temps isense) (fun t =>
      t.gov.tick = (if b.gov.tick < 64 then b.gov.tick else 0) + 1 ∧
      t.gov.emeas = (if b.gov.tick < 64 then b.gov.emeas else 0) + isense.toNat * (reg b (aB 0x128)).toNat ∧
      (f < nFields b → nth 0 temps f ≠ 1023 → (fieldOf t f).code = tempCode b f (nth 0 temps f) ∧
        (frozen b 9 = false → (fieldOf t f).step =
          stepNext (fieldOf b f).step (temp4 (tempCode b f (nth 0 temps f))) (4 * fld (reg b (aB 0x0C5)) 0 8)) ∧
        (fieldOf t f).hot = if (4 * fld (reg b (aB 0x0C6)) 0 8 : Int) ≤ temp4 (tempCode b f (nth 0 temps f)) ∧ modeOf b ≠ 9
          then (fieldOf b f).hot + 1 else 0) ∧
      (f < nFields b → nth 0 temps f = 1023 → bit (reg t (aB 0x0C1)) 3 = true ∧ (frozen b 9 = false → (fieldOf t f).step = 15)))) ∧
    (b.gov.tick < 64 → Becomes st .kWindowEnd b) ∧
    (64 ≤ b.gov.tick → Reaches st .kWindowEnd (fun t => t.gov = { tick := 0, emeas := 0, isen := bit (reg b (aB 0x0C0)) 0 } ∧
      (fieldOf t f).emod = 0 ∧
      (b.gov.isen = true → frozen b 9 = false → b.gov.emeas = 0 → bit (reg t (aB 0x0C1)) 1 = true) ∧
      (b.gov.isen = true → frozen b 9 = false → bit (reg b (aB 0x0C0)) 0 = true → 1024 ≤ emodOf b → b.gov.emeas ≠ 0 →
        reg t (aB 0x0C9) = BitVec.ofNat 14 (max 512 (min 2048 (1024 * b.gov.emeas / emodOf b)))))) ∧
    (frozen b 9 = true → Becomes st .levelStep b) ∧
    (frozen b 9 = false → stepField b = some f → Reaches st .levelStep (fun t =>
      levelOf t f = (if levelOf b f < targetOf b f then levelOf b f + 1 else levelOf b f - 1) ∧ targetOf t f = targetOf b f ∧
      ∀ g, g < 8 → g ≠ f → levelOf t g = levelOf b g)) ∧
    (∀ c, (engOf b e).run = some c → engRuns b e = true → c ≤ 3 → 0 < fld (reg b (aE e 0x20)) 10 4 → (c ≠ 0 ∨ isMember b e = false) →
      Becomes st (.quantumExpire e) (onEng e (fun x => { x with turnOver := true, lastRan := c }) b)) ∧
    ((engOf b e).run = none → Becomes st (.quantumExpire e) b) ∧
    ((∀ r ∈ (fieldOf b (e / 8)).pipe, isLate b (e / 8) r = false) →
      (engRuns b e = true → pick b e = none →
        let b0 := if (engOf b e).run.isSome then stopRun e b else b
        let d := debitCycles e 5 24 1 b0
        let waits : Prop := ∃ k, k < 8 ∧ starvedEng d (8 * (e / 8) + k) = true
        ((engOf b e).stepping = true → Becomes st (.idleCycle e) (haltNow e 2 b0)) ∧
        ((engOf b e).stepping = false → ¬ waits → Becomes st (.idleCycle e) d) ∧
        ((engOf b e).stepping = false → waits → Becomes st (.idleCycle e) (count (aF (e / 8) 0x192) d))) ∧
      (engRuns b e = false ∨ pick b e ≠ none → Becomes st (.idleCycle e) b))

/-- R207, R211 to R213, R317 to R319, R329: ECTL starts an engine, or stops it at its next boundary; CTXDATA writes the selected register,
in two halves at a joined pair; a write of a register of an executing context waits for the instruction's end, or is refused; and
TWINMAP joins and separates pairs at rest. The model's choice: an instruction that waits for the host window is under way (log entry
117). -/
def Obligations.EngineControlAndPairs : Prop :=
  ∀ (st : State) (m : Master) (e : Nat) (c : BCell), Awake st.blk → e < 64 → clocked st.blk (e / 8) = true → isOdd st.blk e = false →
    let b := st.blk
    let v := c.v
    let ectlNew := (reg b (aE e 0x00) &&& ~~~0x0F01) ||| ((if 4 ≤ fld v 8 3 then putf v 8 3 7 else v) &&& 0x0F01)
    let w := reg b (aE e 0x02)
    let step (d : Blk) : Blk := if bit w 6 then setReg (aE e 0x02) (putf w 0 6 (fld w 0 6 + 1)) d else d
    let join (on : Bool) (j : Nat) (t : Blk) : Prop :=
      bit (twinmap t (e / 8)) j = on ∧ engOf t (e + 1) = Engine.cold ∧ (engOf t e).run = none ∧ (engOf t e).fst = [] ∧
      (engOf t e).locks = [] ∧ fld (reg t (aE e 0x00)) 8 3 = 7 ∧
      ∀ i, i < 5 → (ctxOf t e i).data = [] ∧ (ctxOf t e i).ret = [] ∧ (ctxOf t e i).state = 0 ∧ (ctxOf t e i).ps = (ctxOf b e i).ps ∧
        (ctxOf t e i).pc = if on then (ctxOf b e i).pc else (ctxOf b e i).pc &&& 0x3FFF
    let acts : Prop := c.p = false ∨ m = .debug ∨ ∃ i, m = .engine i
    let busy := executing b e (winCtx b e)
    let put (x : BitVec 28) (p : Bool) (d : Blk) : Blk := step (
      if 4 < winCtx b e then d
      else if busy && busyIdx (winReg b e) then orReg (aE e 0x01) 0x40 d
      else if busy && decide (0 < (engOf b e).hmNeed) then onEng e (fun y => { y with ctxq := y.ctxq ++ [(winReg b e, x, p)] }) d
      else writeCtx e (winCtx b e) (winReg b e) x p d)
    (c.p = false → bit v 11 = true →
      Becomes st (.ectlRunSet m e c) (onEng e (fun x => { x with coast := false }) (setReg (aE e 0x00) ectlNew b))) ∧
    (c.p = false → bit v 11 = false → Becomes st (.ectlRunClear m e c)
      (onEng e (fun x => { x with coast := (x.coast || runBit b e) && !x.mchk, mchk := false }) (setReg (aE e 0x00) ectlNew b))) ∧
    (acts → (engOf b e).lops = [] → (engOf b e).halted = false →
      (isTwin b e = false → Becomes st (.ctxdataWrite m e c) (put (v.setWidth 28) c.p b)) ∧
      (isTwin b e = true → (engOf b e).half = none →
        Becomes st (.ctxdataWrite m e c) (onEng e (fun x => { x with half := some (true, v.setWidth 28, c.p) }) b)) ∧
      (∀ q h p, isTwin b e = true → (engOf b e).half = some (q, h, p) →
        Becomes st (.ctxdataWrite m e c) (put (pair (lo14 h) v) (p || c.p) (onEng e (fun x => { x with half := none }) b)))) ∧
    (¬ acts → Becomes st (.ctxdataWrite m e c) (if m = .host then orReg (aB 0x01B) 4 b else b)) ∧
    (c.p = false → e % 2 = 0 →
      let j := e % 8 / 2
      (bit (twinmap b (e / 8)) j = false → bit v j = true →
        (joinFree b (e / 8) j = true → Reaches st (.pairJoin m (e / 8) c) (join true j)) ∧
        (joinFree b (e / 8) j = false → Reaches st (.pairJoin m (e / 8) c) (fun t => bit (twinmap t (e / 8)) j = false ∧
          bit (twinmap t (e / 8)) 4 = true ∧ ∀ i, Woken (ctxOf b (e + 1) i) (ctxOf t (e + 1) i)))) ∧
      (bit (twinmap b (e / 8)) j = true → bit v j = false →
        (joinFree b (e / 8) j = true → Reaches st (.pairSeparate m (e / 8) c) (join false j)) ∧
        (joinFree b (e / 8) j = false → Reaches st (.pairSeparate m (e / 8) c) (fun t => bit (twinmap t (e / 8)) j = true ∧
          bit (twinmap t (e / 8)) 4 = true))))

/-! Debug, links and the fabric (chapters 3, 4, 10 and 18). -/

/-- R213, R231, R536 to R544, R548, R553: a halt asked for is met at once where the engine does not execute and else waits for the boundary, where the
engine halts with the cause shown; FORCE breaks a held sequence; release and STEP let a halted engine run.
The model's choice: STEP on a halted engine wins over HALT = 0 (log entry 32). -/
def Obligations.DebugHaltsAndReleases : Prop :=
  ∀ (st : State) (m : Master) (e : Nat) (c : BCell), Awake st.blk → e < nEngines st.blk → clocked st.blk (e / 8) = true → isOdd st.blk e = false →
    let b := st.blk
    let v := c.v
    let x := engOf b e
    let still (d : Blk) : Prop := goesOn d e = false ∨ x.mchk = true
    let asked (n : Nat) (d t : Blk) : Prop := x.halted = false →
      (still d → (engOf t e).halted = true ∧ fld (reg t (aE e 0x31)) 8 4 = n) ∧
      (¬ still d → (engOf t e).halted = false ∧ (engOf t e).haltReq = some (x.haltReq.getD n))
    let freed (t : Blk) : Prop := (engOf t e).halted = false ∧ (engOf t e).haltReq = none ∧ (engOf t e).stepping = false ∧
      (x.halted = true → (engOf t e).skipCmp = true)
    (mayDebug b m = true → c.p = false →
      (bit v 13 = false → bit v (e / 8) = true →
        Reaches st (.haltallHalt m c) (fun t => bit (reg t (aE e 0x30)) 0 = true ∧ asked 6 b t)) ∧
      (bit v 13 = true → bit v (e / 8) = true →
        Reaches st (.haltallRelease m c) (fun t => bit (reg t (aE e 0x30)) 0 = false ∧ freed t)) ∧
      (bit v 13 = false → bit v (e / 8) = false → Reaches st (.haltallHalt m c) (fun t =>
        (engOf t e).halted = x.halted ∧ (engOf t e).haltReq = x.haltReq)) ∧
      (bit v 0 = true → bit v 1 = false → (bit v 2 = false ∨ x.halted = false) →
        Reaches st (.dbgctlHalt m e c) (fun t => bit (reg t (aE e 0x30)) 0 = true ∧ asked 1 b t)) ∧
      (bit v 0 = false → bit v 1 = false → (bit v 2 = false ∨ x.halted = false) →
        Reaches st (.dbgctlRelease m e c) (fun t => bit (reg t (aE e 0x30)) 0 = false ∧ freed t)) ∧
      (bit v 1 = true → x.halted = false → Reaches st (.dbgctlForce m e c) (fun t => asked 1 (breakLock e b) t ∧ lockHeld t e = false ∧
        (lockHeld b e = true → bit (reg t (aE e 0x31)) 2 = true))) ∧
      (bit v 2 = true → x.halted = true → runBit b e = true → x.mchk = false → Becomes st (.dbgctlStep m e c)
        (onEng e (fun y => { y with stepping := true, skipCmp := true }) (plainWrite (aE e 0x30) (v &&& iacMask b) b))) ∧
      (bit v 2 = true → x.halted = true → runBit b e = false ∨ x.mchk = true → Reaches st (.dbgctlStep m e c) (fun t => (engOf t e).halted = true ∧
        (engOf t e).stepping = false ∧ fld (reg t (aE e 0x31)) 8 4 = 2))) ∧
    (mayDebug b m = false → c.p = false → (bit v 13 = false → Becomes st (.haltallHalt m c) b) ∧ (bit v 13 = true → Becomes st (.haltallRelease m c) b) ∧
      Becomes st (.dbgctlHalt m e c) b ∧ Becomes st (.dbgctlRelease m e c) b ∧ Becomes st (.dbgctlForce m e c) b ∧
      Becomes st (.dbgctlStep m e c) b) ∧
    (haltDue b e = none → Becomes st (.engineHalt e) b) ∧
    (∀ n, haltDue b e = some n → n < 16 → lockHeld b e = false → x.pairB = false → x.hmNeed = 0 → x.entry = none →
      Reaches st (.engineHalt e) (fun t =>
      (engOf t e).halted = true ∧ (engOf t e).haltReq = none ∧ fld (reg t (aE e 0x31)) 8 4 = n ∧
      (∀ k, x.run = some k → k < 5 → reg t (aE e 0x32) = lo14 (ctxOf b e k).pc ∧ fld (reg t (aE e 0x33)) 0 3 = k ∧
        bit (reg t (aE e 0x33)) 3 = (ctxOf b e k).sylb))) ∧
    (lockHeld b e = true ∨ x.pairB = true ∨ x.hmNeed ≠ 0 ∨ x.entry ≠ none → Becomes st (.engineHalt e) b)

/-- R105, R520, R549 to R552: a register stimulus on an enabled port enters the field's queue as a packet of KIND 6; the oldest packet
leaves on the TRACE port; and the gathered packets leave as a TRACE frame.
The model's choice: a field's packets move on at its boundaries and at the trace commands (log entry 26). -/
def Obligations.TracePacketsAndFrames : Prop :=
  ∀ (st : State) (m : Master) (f n : Nat) (c : BCell), Awake st.blk → f < 8 → n < 32 → clocked st.blk f = true →
    let b := st.blk
    let g := fieldOf b f
    (c.p = false → mayDebug b m = true → bit (reg b (aF f (0x2A0 + n / 14))) (n % 14) = true →
      (g.stimq.length < 8 → Becomes st (.stimWrite m f n c) (onField f (fun x => { x with stimq := x.stimq ++
        [{ c0 := cleanN (6 * 2048 + f * 256 + n), c1 := c, c2 := clean g.cur.slot, c3 := clean (lo14 g.cur.sweep) }] }) b)) ∧
      (8 ≤ g.stimq.length → Becomes st (.stimWrite m f n c) (raise f 489 (orReg (aF f 0x2A3) 0x10 (count (aF f 0x2A4) b))))) ∧
    (c.p = false → mayDebug b m = false ∨ bit (reg b (aF f (0x2A0 + n / 14))) (n % 14) = false → Becomes st (.stimWrite m f n c) b) ∧
    ((∀ i, i < nFields b → (fieldOf b i).stimq = []) →
      (∀ p q, trcPort b = true → trcFrames b = false → b.trace.q = p :: q → b.trace.ovf = 0 →
        Becomes st .tracePacketSend (onTrace (fun t => { t with q := q, out := some p }) b)) ∧
      (trcPort b = false ∨ b.trace.q = [] → Becomes st .tracePacketSend b) ∧
      (trcFrames b = false → Becomes st .traceFrameSend b) ∧
      (trcFrames b = true → trcPort b = true → b.trace.gather ≠ [] → Becomes st .traceFrameSend
        (originate
          { typ := 11, dest := idAt b (aB 0x18A), src := ownId b, tag := b.tb.slot, hop := 0, bc := false,
            pay := traceWords b.trace.gather } (onTrace (fun t => { t with gather := [] }) b))) ∧
      (trcFrames b = true → trcPort b = false → b.trace.ovf = 0 → b.trace.gather = [] → b.trace.q ≠ [] → Becomes st .traceFrameSend
        (originate
          { typ := 11, dest := idAt b (aB 0x18A), src := ownId b, tag := b.tb.slot, hop := 0, bc := false,
            pay := traceWords (b.trace.q.take 8) } (onTrace (fun t => { t with gather := [], q := t.q.drop 8 }) b))))

/-- R92, R104, R107, R112 to R116, R118, R126, R127: CTL enables, disables and retrains a link, a frame open on it then ending as a bad
frame; training words take it through SEEK, HEARD and READY to UP, or to FAULT; silence takes it DOWN; a frame leaves when credits
cover it; and owed credits and STATUS frames are sent. The model's choices: the READY words after UP end with TRAINING_WORDS_SENT (log
entry 106), a frame's words are freed when the last copy of it has left (log entry 104), and owed credits that reach THRESH go out by
themselves (log entry 105). -/
def Obligations.LinksTrainAndSend : Prop :=
  (∀ (st : State) (m : Master) (l : Nat) (c : BCell) (w : BitVec 64), Awake st.blk → l < nLinks st.blk → (linkOf st.blk l).quiet < 5 →
    let b := st.blk
    let v := c.v
    let k := linkOf b l
    let ctl := (reg b (aL l 0) &&& ~~~0x2FD) ||| (v &&& 0x2FD)
    let cut (t : Blk) : Prop := (linkOf t l).part = none ∧ (k.part ≠ none → passesMarkers (setReg (aL l 0) ctl b) l = true →
      alignOn b (l / 12) = true → (suspOf (fieldOf t (l / 12)) (l % 12)).opened ≠ none)
    let trains (t : Blk) : Prop := reg t (aL l 0) = ctl ∧ (linkOf t l).st = 1 ∧ (linkOf t l).phase = 0 ∧ (linkOf t l).run = 0 ∧
      reg t (aL l 2) = 0 ∧ cut t
    let down (t : Blk) : Prop := reg t (aL l 0) = ctl ∧ (linkOf t l).st = 0 ∧ (linkOf t l).phase = 0 ∧ (linkOf t l).run = 0 ∧ cut t
    let up (t : Blk) : Prop := (linkOf t l).st = 2 ∧ credOf t l = 128 ∧ (linkOf t l).owed = 0 ∧ (linkOf t l).txseq = 0 ∧
      (linkOf t l).rbuf = [] ∧ (linkOf t l).exp = (if roleOf b l = 1 then some 0 else none) ∧
      (linkOf t l).tail = (decide (roleOf b l = 1) && decide (0 < fld (reg b (aB 0x18C)) 8 6))
    let run' := min 255 (k.run + 1)
    let body := wBody w
    let id : BitVec 16 := body.extractLsb' 40 16
    let bad := roleOf b l = 1 ∧ (id = ownId b ∨ fld body 14 9 = 0)
    let ph := fld body 23 3
    let heard := onLink l (fun x => { x with quiet := 0 }) b
    let loops (x : Frame) (n : Nat) (d : Blk) : Blk :=
      if linkLoop b l = true ∧ rxLive b l = true then rxOther l (rxFrame l (frameWords x k.txseq n)) d else d
    let left (x : Frame) (d : Blk) : Blk := match x.hold with
      | some (i, n) => creditAuto i (freeFrame i n d)
      | none => d
    (c.p = false → bit v 0 = true → fld v 2 2 ≠ 3 →
      (bit v 8 = false → linkOn b l = false → modeOf b = 3 → Reaches st (.linkEnable m l c) trains) ∧
      (bit v 8 = false → (linkOn b l = true ∨ modeOf b ≠ 3) → Becomes st (.linkEnable m l c) (setReg (aL l 0) ctl b)) ∧
      (bit v 8 = true → Reaches st (.retrain m l c) trains ∧ Reaches st (.linkEnable m l c) trains)) ∧
    (c.p = false → bit v 0 = false ∨ fld v 2 2 = 3 → (bit v 0 = false → Reaches st (.linkDisable m l c) down) ∧
      (bit v 0 = true → Reaches st (.linkEnable m l c) down) ∧ (bit v 8 = true → Reaches st (.retrain m l c) down)) ∧
    (rxLive b l = true → linkLoop b l = false → wKind w = 4 →
      Reaches st (.trainingWord l w) (fun t => reg t (aL l 3) = id.extractLsb' 0 14 ∧ fld (reg t (aL l 4)) 12 2 = id.toNat / 16384) ∧
      (k.st = 1 → fld body 0 12 ≠ 0xA5A → Reaches st (.trainingWord l w) (fun t => (linkOf t l).st = 1 ∧ (linkOf t l).run = 0)) ∧
      (k.st = 1 → fld body 0 12 = 0xA5A →
        (bad → Reaches st (.trainingWord l w) (fun t => (linkOf t l).st = 3)) ∧
        (¬ bad → roleOf b l = 0 → trainN b ≤ run' → Reaches st (.trainingWord l w) up) ∧
        (¬ bad → roleOf b l = 0 ∨ k.phase = 0 → run' < trainN b →
          Reaches st (.trainingWord l w) (fun t => (linkOf t l).st = 1 ∧ (linkOf t l).run = run' ∧ (linkOf t l).phase = k.phase)) ∧
        (¬ bad → roleOf b l = 1 → k.phase = 0 → trainN b ≤ run' → Reaches st (.trainingWord l w) (fun t => (linkOf t l).st = 1 ∧ (linkOf t l).phase = 1)) ∧
        (¬ bad → roleOf b l = 1 → k.phase = 1 → ph = 1 ∨ ph = 2 → Reaches st (.trainingWord l w) (fun t => (linkOf t l).st = 1 ∧ (linkOf t l).phase = 2)) ∧
        (¬ bad → roleOf b l = 1 → k.phase = 2 → ph = 2 → Reaches st (.trainingWord l w) up)) ∧
      (k.st = 2 → fld body 0 12 ≠ 0xA5A ∨ (roleOf b l = 1 ∧ 2 < ph) →
        Reaches st (.trainingWord l w) (fun t => (linkOf t l).st = 2 ∧ bit (reg t (aL l 1)) 4 = true)) ∧
      (k.st = 2 → fld body 0 12 = 0xA5A → roleOf b l = 1 → ph = 2 → Becomes st (.trainingWord l w) (setPeer l id heard)) ∧
      (k.st = 2 → fld body 0 12 = 0xA5A → roleOf b l = 0 ∨ ph < 2 → ¬ bad → 1 < trainN b →
        Reaches st (.trainingWord l w) (fun t => (linkOf t l).st = 1 ∧ (linkOf t l).run = 1 ∧ (linkOf t l).part = none))) ∧
    (rxLive b l = false ∨ (linkLoop b l = true ∧ isOwnTraining b l body = false) → Becomes st (.trainingWord l w) b) ∧
    (rxLive b l = false ∨ linkLoop b l = true → Becomes st (.wordOutsideFrame l w) b) ∧
    (rxLive b l = true → linkLoop b l = false → k.st = 2 →
      (wKind w = 0 → Becomes st (.wordOutsideFrame l w) (creditAuto l heard)) ∧
      (4 < wKind w → Becomes st (.wordOutsideFrame l w) (creditAuto l (linkFlag l 0x10 heard))) ∧
      (k.part = none → wKind w = 2 → Becomes st (.wordOutsideFrame l w) (creditAuto l (linkFlag l 0x10 heard))) ∧
      (k.part = none → wKind w = 3 → Becomes st (.wordOutsideFrame l w)
        (creditAuto l (creditReturn l (tCredit body) (linkFlag l 0x10 heard)))) ∧
      (∀ p, k.part = some p → wKind w = 3 → Becomes st (.wordOutsideFrame l w) (creditAuto l
        (rxTrailer l p.port (wBody p.frame.hdr) p.frame.pay body (onLink l (fun x => { x with part := none }) heard)))) ∧
      (∀ p, k.part = some p → wKind w = 2 → p.frame.pay.length < payLimit b l → wC w = decide (hType (wBody p.frame.hdr) = 3) →
        Becomes st (.wordOutsideFrame l w) (creditAuto l (onLink l (fun x => { x with
          part := some { p with frame := { p.frame with pay := p.frame.pay ++ [w] } } }) heard)))) ∧
    (linkOn b l = true → roleOf b l = 2 → k.st = 1 → Reaches st (.trainingWordsSent l) up) ∧
    (roleOf b l = 1 → Becomes st (.trainingWordsSent l) (onLink l (fun x => { x with tail := false }) b)) ∧
    Becomes st (.linkSilenceDown l) b ∧
    (canSend b l = false ∨ k.tail = true → Becomes st (.frameTransmit l) b ∧ Becomes st (.creditIdleSend l) b) ∧
    (canSend b l = true → k.tail = false →
      (k.txq = [] → Becomes st (.frameTransmit l) b) ∧
      (∀ x r, k.txq = x :: r →
        (roleOf b l = 2 → Becomes st (.frameTransmit l) (left x (loops x 0 (onLink l (fun y => { y with
          txq := r, txseq := y.txseq + 1, lastTx := some (x, y.txseq, 0) }) b)))) ∧
        (roleOf b l = 1 → credOf b l < 2 + x.pay.length → Becomes st (.frameTransmit l) b) ∧
        (roleOf b l = 1 → 2 + x.pay.length ≤ credOf b l → Becomes st (.frameTransmit l)
          (left x (loops x (min k.owed 511) (onLink l (fun y => { y with
            txq := r, txseq := y.txseq + 1, owed := y.owed - min y.owed 511, lastTx := some (x, y.txseq, min y.owed 511) })
            (setCred l (credOf b l - (2 + x.pay.length)) b)))))) ∧
      (roleOf b l = 1 → 0 < k.owed →
        let x : Frame := { typ := 0, dest := peerId b l, src := ownId b, tag := b.tb.slot, hop := 0, bc := false, pay := [] }
        Becomes st (.creditIdleSend l) (loops x (min k.owed 511) (onLink l (fun y => { y with
          txseq := y.txseq + 1, owed := y.owed - min y.owed 511, lastTx := some (x, y.txseq, min y.owed 511) }) b))) ∧
      (roleOf b l ≠ 1 ∨ k.owed = 0 → Becomes st (.creditIdleSend l) b)) ∧
    (statusDue b = true → Becomes st .statusSend (originate
      { typ := 9, dest := idAt b (aB 0x188), src := ownId b, tag := b.tb.slot, hop := 0, bc := false, pay := packCells (statusCells b) }
      { b with statCnt := 0 })) ∧
    (statusDue b = false → Becomes st .statusSend b)) ∧
  (∀ (st : State) (l : Nat), st.blk.md.off = false → l < 96 → 5 ≤ (linkOf st.blk l).quiet →
    (linkOf st.blk l).st = 1 ∨ (linkOf st.blk l).st = 2 →
    Reaches st (.linkSilenceDown l) (fun t => (linkOf t l).st = 0 ∧ (linkOf t l).phase = 0 ∧ (linkOf t l).run = 0 ∧
      (linkOf t l).part = none ∧ (∀ k, k ≠ l → linkOf t k = linkOf st.blk k) ∧ t.tb = st.blk.tb))

/-- R98, R99, R106, R107, R113, R130, R131, R134, R136, R137: a good HIT, RUN or RUNC frame on an intake link is held for its slot where it is on
time and the buffer has room, and counted with its slot marked where it is late or has none; one with a bad CRC, or an unlawful
descriptor, is counted or flagged, and opens a suspect interval. -/
def Obligations.IntakeFramesAreAligned : Prop :=
  ∀ (st : State) (l : Nat) (w : WireFrame) (t : BitVec 64) (c : Instr) (typ : Nat), st.blk.md.off = false →
    (c, typ) ∈ [(Instr.hitFrame l w, 1), (.runFrame l w, 2), (.runcFrame l w, 3)] →
    let b := st.blk
    let f := l / 12
    let h := wBody w.hdr
    let g := fieldOf b f
    let x : AFrame := { link := l % 12, tag := hTag h, typ := typ, hdr := h, pay := w.pay }
    let lawful := typ = 1 ∨ runLawful typ (w.pay.map wBody) = true
    (hType h ≠ typ → Becomes st c b) ∧
    (hType h = typ → GoodWire b l w t → roleOf b l = 0 → lawful → alignOn b f = true →
      alignA b + 1 < sinceK0 g ∨ slotAge g (hTag h) ≤ sinceK0 g →
      (suspOf g (l % 12)).opened = none →
      (slotAge g (hTag h) < alignA b → bufWords g + 2 + w.pay.length ≤ 8192 → Reaches st c (fun d =>
        (fieldOf d f).abuf = g.abuf ++ [x] ∧ (linkOf d l).exp = some (tSeq (wBody t) + 1) ∧ (suspOf (fieldOf d f) (l % 12)).g = some (hTag h) ∧
        (fieldOf d f).marks = g.marks)) ∧
      (alignA b ≤ slotAge g (hTag h) → Reaches st c (fun d => (fieldOf d f).abuf = g.abuf ∧
        0 < kget 0 (fieldOf d f).marks (hTag h).toNat ∧
        (let n := if slotAge g (hTag h) < alignA b + 2 then aF f 0x049 else aF f 0x04A
        (reg d n).toNat = min 16383 ((reg b n).toNat + 1)))) ∧
      (slotAge g (hTag h) < alignA b → 8192 < bufWords g + 2 + w.pay.length → Reaches st c (fun d => (fieldOf d f).abuf = g.abuf ∧
        0 < kget 0 (fieldOf d f).marks (hTag h).toNat ∧ (reg d (aF f 0x04B)).toNat = min 16383 ((reg b (aF f 0x04B)).toNat + 1)))) ∧
    (hType h = typ → GoodWire b l w t → roleOf b l = 0 → ¬ lawful → alignOn b f = true → Reaches st c (fun d =>
      bit (reg d (aL l 1)) 4 = true ∧ (fieldOf d f).abuf = g.abuf ∧ (suspOf (fieldOf d f) (l % 12)).opened ≠ none)) ∧
    (hType h = typ → GoodWire b l w t → roleOf b l = 0 → lawful → alignOn b f = false → Reaches st c (fun d =>
      (fieldOf d f).abuf = g.abuf ∧ (linkOf d l).exp = some (tSeq (wBody t) + 1) ∧ (linkOf d l).quiet = 0)) ∧
    (hType h = typ → rxLive b l = true → linkLoop b l = false → wireShape w = true → (linkOf b l).st = 2 → (linkOf b l).quiet < 5 → w.trl = some t →
      w.pay.length ≤ 512 → roleOf b l = 0 → alignOn b f = true → frameCrc h (w.pay.map wBody) ≠ tCrc (wBody t) → Reaches st c (fun d =>
        (reg d (aL l 5)).toNat = min 16383 ((reg b (aL l 5)).toNat + 1) ∧ (fieldOf d f).abuf = g.abuf ∧
        (suspOf (fieldOf d f) (l % 12)).opened ≠ none))

/-- R96, R102, R103, R112, R121 to R123, R125, R138, R139, R450, R453, R552: a good frame on a fabric link that is for this block goes to its
unit by its type; one for another block is sent on with HOP one greater, or counted; a broadcast is delivered and goes to the links of
its group; an unassigned type is counted; IDLE returns credits alone. The model's choice: the frame's words are freed when no copy of it
waits to be sent (log entry 104), as `handled` says. -/
def Obligations.FabricFramesAreDelivered : Prop :=
  ∀ (st : State) (l : Nat) (w : WireFrame) (t : BitVec 64), st.blk.md.off = false → GoodWire st.blk l w t → roleOf st.blk l = 1 →
    let b := st.blk
    let f := l / 12
    let x := frameOf l (linkOf b l).rxn w t
    let b1 := linkTook l w t b
    let does (g : Blk → Blk) : Blk := handled l (2 + w.pay.length) g b1
    let cells := payCells x.pay
    let here : Prop := x.bc = false ∧ x.dest = ownId b
    let set := b2n (bit (reg b (aB 0x181)) 0)
    let goes (p : Nat) : Prop := (x.dest.toNat / 16 = (ownId b).toNat / 16 ∧ p = fld (reg b (aB (0x1A0 + x.dest.toNat % 16))) 0 7) ∨
      (x.dest.toNat / 16 ≠ (ownId b).toNat / 16 ∧ b.md.fabClear = false ∧ ∃ y : BitVec 14,
        rawWord b (0x210000 + set * 0x1000 + x.dest.toNat / 16) = storedWord y ∧ p = fld y 0 7)
    let rows : List (Instr × Nat) := [(.primFrame l w, 4), (.decisionFrame l w, 5), (.doorbellFrame l w, 6), (.cmdFrame l w, 7),
      (.replyFrame l w, 8), (.statusFrame l w, 9), (.timeFrame l w, 10), (.traceFrame l w, 11)]
    (x.typ = 0 → Becomes st (.idleFrame l w) (creditAuto l b1)) ∧
    (12 ≤ x.typ → Becomes st (.badtypeFrame l w) (does (count (aB 0x191)))) ∧
    (∀ c, (c, x.typ) ∈ [(Instr.hitFrame l w, 1), (.runFrame l w, 2), (.runcFrame l w, 3)] → Becomes st c (does (count (aB 0x191)))) ∧
    (here → x.typ = 6 → Becomes st (.doorbellFrame l w) (does (each (fun c d =>
      if fld c.v 0 9 = 0 ∨ nFields b ≤ fld c.v 11 3 then d
      else if c.p then (if clocked d (fld c.v 11 3) then orReg (aF (fld c.v 11 3) 0x102) 0x200 (count (aF (fld c.v 11 3) 0x105) d) else d)
      else raise (fld c.v 11 3) (fld c.v 0 9) d) cells))) ∧
    (here → x.typ = 7 → b.stw.fq.length < 8 → Becomes st (.cmdFrame l w) (does
      (onStw (fun s => { s with fq := s.fq ++ [{ cells := cells, link := some (l, x.hop), src := x.src, frame := true }] })))) ∧
    (here → x.typ = 7 → 8 ≤ b.stw.fq.length → Reaches st (.cmdFrame l w) (fun d => d.stw.fq = b.stw.fq ∧
      (reg d (aB 0x14B)).toNat = min 16383 ((reg b (aB 0x14B)).toNat + 1))) ∧
    (let n := 2 + fld (nth absentCell cells 0).v 0 7
     here → x.typ = 8 → n ≤ cells.length →
      (b.stw.cmdout.length + 2 + n ≤ 256 → Reaches st (.replyFrame l w) (fun d => d.stw.cmdout = b.stw.cmdout ++
        [clean (x.src.extractLsb' 0 14), cleanN (x.src.toNat / 16384)] ++ cells.take n)) ∧
      (256 < b.stw.cmdout.length + 2 + n → Reaches st (.replyFrame l w) (fun d => d.stw.cmdout = b.stw.cmdout ∧
        (reg d (aB 0x14C)).toNat = min 16383 ((reg b (aB 0x14C)).toNat + 1)))) ∧
    (here → x.typ = 9 → 40 ≤ cells.length → b.stw.cmdout.length + 44 ≤ 256 → Reaches st (.statusFrame l w) (fun d =>
      d.stw.cmdout = b.stw.cmdout ++ [clean (x.src.extractLsb' 0 14), cleanN (x.src.toNat / 16384), cleanN (11 * 128 + 40), clean 0] ++ cells.take 40)) ∧
    (here → x.typ = 10 →
      let differs := bit (reg b (aB 0x180)) 1 = true ∧ counting b = true ∧ ∃ p ps slot sweep, x.pay = p :: ps ∧
        b.tb.hist.find? (fun e => e.1 == x.tag.toNat) = some (slot, sweep) ∧ sweep ≠ pair (bodyCell p.1 0) (bodyCell p.1 1)
      (differs → Becomes st (.timeFrame l w) (does (fun d => linkRaise l 3 (orReg (aB 0x181) 8 d)))) ∧
      (¬ differs → Becomes st (.timeFrame l w) (does (fun d => d)))) ∧
    (here → x.typ = 11 → (trcPort b = false → Becomes st (.traceFrame l w) (does (fun d => d))) ∧
      (trcPort b = true → b.trace.q.length + 1 + x.pay.length ≤ 64 → Reaches st (.traceFrame l w) (fun d =>
        d.trace.q.length = b.trace.q.length + 1 + x.pay.length ∧ d.trace.q.take b.trace.q.length = b.trace.q))) ∧
    (here → x.typ = 4 ∨ x.typ = 5 → ∀ c, c = Instr.primFrame l w ∧ x.typ = 4 ∨ c = Instr.decisionFrame l w ∧ x.typ = 5 →
      (bit (reg b (aF f 0)) 13 = false ∨ alignOn b f = false → Becomes st c (does (fun d => d))) ∧
      (bit (reg b (aF f 0)) 13 = true → alignOn b f = true →
        alignA b + 1 < sinceK0 (fieldOf b f) ∨ slotAge (fieldOf b f) x.tag ≤ sinceK0 (fieldOf b f) →
        (suspOf (fieldOf b f) (l % 12)).opened = none → slotAge (fieldOf b f) x.tag < alignA b →
        bufWords (fieldOf b f) + 2 + w.pay.length ≤ 8192 → Reaches st c (fun d => ∃ y, (fieldOf d f).abuf = (fieldOf b f).abuf ++ [y] ∧
          y.link = l % 12 ∧ y.tag = x.tag ∧ y.typ = x.typ ∧ y.pay.map wBody = w.pay.map wBody))) ∧
    (∀ c p, (c, x.typ) ∈ rows → x.bc = false → x.dest ≠ ownId b → goes p →
      let onward := bit (reg b (aB 0x180)) 0 = true ∧ p ≤ 95
      (onward → x.hop ≠ 30 → canSend b p = true →
        Becomes st c (does (onLink p (fun k => { k with txq := k.txq ++ [{ x with hop := (x.hop + 1) % 32 }] })))) ∧
      (onward → x.hop ≠ 30 → canSend b p = false → Becomes st c (does (count (aB 0x190)))) ∧
      (onward → x.hop = 30 → Becomes st c (does (count (aB 0x18F)))) ∧
      (p = 127 → Becomes st c (does (deliverLocal (some l) x))) ∧
      (p ≠ 127 → ¬ onward → Becomes st c (does (count (aB 0x190))))) ∧
    (∀ c, (c, x.typ) ∈ rows → x.bc = true →
      (bit (reg b (aL l 0)) 6 = false → Becomes st c (does (count (aB 0x192)))) ∧
      (bit (reg b (aL l 0)) 6 = true → x.hop = 30 → Becomes st c (does (fun d => count (aB 0x18F) (deliverLocal (some l) x d)))) ∧
      (bit (reg b (aL l 0)) 6 = true → x.hop ≠ 30 →
        Becomes st c (does (fun d => sendEvery 7 (some l) { x with hop := (x.hop + 1) % 32 } (deliverLocal (some l) x d))))) ∧
    (∀ c n, (c, n) ∈ (Instr.idleFrame l w, 0) :: rows → x.typ ≠ n → Becomes st c b)

/-! The steward (chapters 14 and 15). -/

/-- R439, R441, R447 to R449, R451, R454, R456, R458, R474, R476: cells enter the command FIFO or set INOVF; INFLUSH and OUTFLUSH empty
the FIFOs; the steward takes the next complete packet and counts it, answering BADOP, BUSY or POISON where it must; with REMOTE
a packet leaves as a CMD frame; and the installer's ports stage a record, start an installation and end it. -/
def Obligations.StewardPortsAndPackets : Prop :=
  ∀ (st : State) (m : Master) (c : BCell), Awake st.blk →
    let b := st.blk
    let w := b.stw
    let inovf := bit (reg b (aB 0x012)) 13
    let remote := bit (reg b (aB 0x142)) 0
    let takes (q : Cmd) (rest : Blk) : Prop :=
      let d := count (aB 0x149) rest
      let op := cmdOp q
      let good : Prop := ∀ y ∈ q.cells.take 2, y.p = false
      let quick : Prop := op ∈ [0x01, 0x02, 0x07, 0x0B, 0x0D, 0x0E, 0x11, 0x12]
      let acts : Prop := op = 0x0A ∨ op = 0x0C
      let wrong : Prop := (op = 0x0A ∧ 3 < fld (arg q 0).v 11 3) ∨ (op = 0x0C ∧ (2 < (arg q 0).v.toNat ∨ 126 < cmdLen q))
      let answers (status : Nat) : Prop := Becomes st .stewardTakePacket (reply q status [] d)
      (¬ good → answers 8) ∧
      (good → q.cells.length < 2 + cmdLen q → answers 5) ∧
      (good → 2 + cmdLen q ≤ q.cells.length →
        (op = 0 ∨ 0x12 < op → answers 4) ∧
        (1 ≤ op → op ≤ 0x12 → 4 ≤ w.defer.length → ¬ quick → answers 3) ∧
        (1 ≤ op → op ≤ 0x12 → w.defer.length < 4 ∨ quick →
          (acts → cmdLen q = 0 → answers 5) ∧
          (acts → cmdLen q ≠ 0 → (arg q 0).p = true → answers 8) ∧
          (acts → cmdLen q ≠ 0 → (arg q 0).p = false → wrong → answers 5) ∧
          (¬ acts ∨ (cmdLen q ≠ 0 ∧ (arg q 0).p = false ∧ ¬ wrong) → Becomes st .stewardTakePacket
            (onStw (fun s => { s with cur := some { q with num := s.cmdNum }, cmdNum := s.cmdNum + 1 }) d))))
    (w.cmdin.length < 256 → Becomes st (.cmdinWrite m c) (onStw (fun s => { s with cmdin := s.cmdin ++ [c] }) b)) ∧
    (256 ≤ w.cmdin.length → inovf = true → Becomes st (.cmdinWrite m c) b) ∧
    (256 ≤ w.cmdin.length → inovf = false → Becomes st (.cmdinWrite m c) (stwRaise 481 (orReg (aB 0x012) 0x2000 b))) ∧
    Becomes st (.cmdctlInflush m) (clrReg (aB 0x012) 0x2000 (onStw (fun s => { s with cmdin := [] }) b)) ∧
    (w.waiting = [] → Becomes st (.cmdctlOutflush m) (onStw (fun s => { s with cmdout := [] }) b)) ∧
    (w.cur ≠ none ∨ modeOf b = 1 ∨ frozen b 10 = true → Becomes st .stewardTakePacket b) ∧
    (w.cur = none → modeOf b ≠ 1 → frozen b 10 = false →
      (∀ c0 r, w.cmdin = c0 :: r → inovf = false → 2 + fld c0.v 0 7 ≤ w.cmdin.length → remote = false → w.fq = [] ∨ w.fromFrame = false →
        let n := 2 + fld c0.v 0 7
        takes { cells := w.cmdin.take n, link := none, src := 0 } (onStw (fun s => { s with cmdin := s.cmdin.drop n, fromFrame := true }) b)) ∧
      (∀ q r, w.fq = q :: r → remote = true ∨ w.cmdin = [] ∨ inovf = true ∨ w.fromFrame = true →
        takes q (onStw (fun s => { s with fq := r, fromFrame := false }) b)) ∧
      (w.fq = [] → w.cmdin = [] ∨ inovf = true ∨ remote = true → Becomes st .stewardTakePacket b)) ∧
    (remote = false ∨ w.cmdin = [] ∨ inovf = true ∨ modeOf b = 1 ∨ frozen b 10 = true → Becomes st .cmdForward b) ∧
    (∀ c0 r, w.cmdin = c0 :: r → inovf = false → 2 + fld c0.v 0 7 ≤ w.cmdin.length → remote = true → modeOf b ≠ 1 → frozen b 10 = false →
      let n := 2 + fld c0.v 0 7
      Becomes st .cmdForward (originate
        { typ := 7, dest := idAt b (aB 0x143), src := ownId b, tag := b.tb.slot, hop := 0, bc := bit (reg b (aB 0x142)) 1,
          pay := packCells (w.cmdin.take n) } (onStw (fun s => { s with cmdin := s.cmdin.drop n }) b))) ∧
    (b.mc.busy = true → Becomes st (.pctlLreset m) b ∧ Becomes st (.pctlInstall m) b ∧
      (c.p = false → Becomes st (.ploadWrite m c) b) ∧
      Reaches st .patchInstallComplete (fun t => t.mc.busy = false ∧ fld (reg t (aB 0x205)) 0 4 = installResult b ∧
        t.mc.stage = b.mc.stage ∧ t.mc.patch = (if installResult b = 1 then recPatch b else b.mc.patch) ∧
        (installResult b = 1 → reg t (aB 0x208) = recCell b 2 ∧ reg t (aB 0x209) = recCell b 3 ∧
          bit (reg t (aB 0x205)) 12 = decide (0 < nMatch b) ∧ bit (reg t (aB 0x205)) 11 = bit (recCell b 4) 0) ∧
        (installResult b ≠ 1 → ∀ a, a ≠ aB 0x205 → reg t a = reg b a))) ∧
    (b.mc.busy = false → Becomes st (.pctlLreset m) (onMc (fun x => { x with stage := [] }) b) ∧
      Becomes st (.pctlInstall m) (onMc (fun x => { x with busy := true }) b) ∧
      Becomes st .patchInstallComplete b ∧
      (c.p = false → b.mc.stage.length < 364 →
        Becomes st (.ploadWrite m c) (onMc (fun x => { x with stage := x.stage ++ [clean c.v] }) b)) ∧
      (c.p = false → 364 ≤ b.mc.stage.length → Becomes st (.ploadWrite m c) b))

/-- R231, R445, R446, R452, R453, R455, R459 to R463, R465 to R467, R469, R471, R472: the steward's opcodes. With the command `c` in hand
each replies with its status and data after its effect; a PING that is not silent puts its envelope, its header and its parameters into
the reply FIFO; a WRITE, FILL or LOADSET stops at its first write that fails; one whose range another deferred command holds is BUSY;
and a row of another opcode than the one in hand does nothing.
The model's choices: each command runs in one event but where it has to wait, for a locked sequence or for the host window, and
whether it is then deferred or stays in hand is free (log entry 41), as `park` says. -/
def Obligations.StewardOpcodesAnswer : Prop :=
  ∀ (st : State) (c : Cmd), Awake st.blk → st.blk.stw.cur = some c →
    c.want = 0 → c.late = false → c.got = [] → c.made = 0 →
    let b := st.blk
    let op := cmdOp c
    let n := cmdLen c
    let x (i : Nat) := arg c i
    let clean' (l : List BCell) : Prop := ∀ y ∈ l, y.p = false
    let done (status : Nat) (data : List BCell) (d : Blk) : Blk := reply c status data (onStw (fun w => { w with cur := none }) d)
    let waits (d : Blk) (q : Nat) : Prop := mustWait d (cmdMaster c) q = true
    let writes (i : Instr) (l : List (Nat × BCell)) : Prop :=
      ((∀ q ∈ l, ¬ waits b q.1) → ∀ k fail d, stwWrites c l 0 b = (k, fail, d) →
        (fail = none → d.stw.cur ≠ none → Becomes st i (done 0 [] d)) ∧
        (fail = none → d.stw.cur = none → Becomes st i d) ∧
        (∀ why a, fail = some (why, a) → d.stw.cur ≠ none → Becomes st i
          (done (if 0 < k then 9 else why) [cleanN k, cleanN (k / 16384), cleanN why, cleanN a, cleanN (a / 16384)] d))) ∧
      (∀ l1 q l2, l = l1 ++ q :: l2 → (∀ y ∈ l1, ¬ waits b y.1) → waits b q.1 → ∀ k d, stwWrites c l1 0 b = (k, none, d) →
        d.stw.cur ≠ none → Becomes st i (park { c with made := k } d))
    let a := argPair c 0
    (op = 0x01 → Becomes st .ping (done 0 (args c) b) ∧
      (c.frame = false → 2 ≤ c.cells.length → bit (cmdTag c) 13 = false → b.stw.waiting = [] →
        b.stw.cmdout.length + 4 + (args c).length ≤ 256 →
        Reaches st .ping (fun t => t.stw.cur = none ∧ t.stw.cmdout = b.stw.cmdout ++
          [clean ((ownId b).extractLsb' 0 14), cleanN (8192 + (ownId b).toNat / 16384), cleanN (args c).length, clean (cmdTag c)] ++ args c)) ∧
      (2 ≤ c.cells.length → bit (cmdTag c) 13 = true → Becomes st .ping (onStw (fun w => { w with cur := none }) b))) ∧
    (op = 0x02 → n = 0 → Becomes st .ident (done 0
      ([0x002, 0x182, 0x183, 0x20B, 0x20A, 0x208, 0x209, 0x146, 0x12A, 0x000].map (fun o => regValue b .steward (aB o))) b)) ∧
    (op = 0x03 → n = 3 → clean' (args c) →
      let k := (x 2).v.toNat
      (1 ≤ k → k ≤ 127 → rangeOk a k = true →
        (rangeTaken b c a k = true → Becomes st .read (done 3 [] b)) ∧
        (rangeTaken b c a k = false →
          (isWindow a = false ∨ mayWindow c b = false → (∀ q ∈ span a k, ¬ waits b q) → ∀ l d, stwReads c (span a k) b = (l, d) →
            Becomes st .read (done (readStatus l) (l.map (fun y => y.1)) d)) ∧
          (isWindow a = true → mayWindow c b = true → Becomes st .read (park { c with want := k }
            (onHost (fun h => { h with hm := h.hm ++ (span a k).map (fun q =>
              { m := cmdMaster c, a := q, wr := false, cells := [], two := false, dead := false, ctx := c.num }) }) b))))) ∧
      (k = 0 ∨ 127 < k ∨ rangeOk a k = false → Becomes st .read (done 5 [] b))) ∧
    (op = 0x04 → 3 ≤ n → (x 0).p = false → (x 1).p = false →
      let d := (args c).drop 2
      (rangeOk a d.length = false → Becomes st .write (done 5 [] b)) ∧
      (rangeOk a d.length = true → rangeTaken b c a d.length = true → Becomes st .write (done 3 [] b)) ∧
      (rangeOk a d.length = true → rangeTaken b c a d.length = false → writes .write ((span a d.length).zip d))) ∧
    (op = 0x05 → n = 5 → clean' ((args c).take 4) →
      let k := argPair c 2
      (k = 0 ∨ 1048576 < k ∨ rangeOk a k = false → Becomes st .fill (done 5 [] b)) ∧
      (1 ≤ k → k ≤ 1048576 → rangeOk a k = true →
        (rangeTaken b c a k = true → Becomes st .fill (done 3 [] b)) ∧
        (rangeTaken b c a k = false → writes .fill ((span a k).map (fun q => (q, x 4)))))) ∧
    (op = 0x07 → n = 0 → Becomes st .status (done 0 (statusCells b) b)) ∧
    (op = 0x08 → 3 ≤ n → (x 0).p = false → (x 1).p = false →
      let kind := fld (x 0).v 11 3
      let f := fld (x 0).v 0 3
      let q := (x 1).v.toNat * setUnit kind
      let d := (args c).drop 2
      kind ≤ 4 → (kind = 2 ∨ f < nFields b) → q + d.length ≤ setSize kind →
      (swapHeld b kind f = true → Becomes st .loadset (done 3 [] b)) ∧
      (swapHeld b kind f = false → writes .loadset (((List.range d.length).map (fun i => setAddr b kind f (q + i))).zip d))) ∧
    (op = 0x0B → 2 ≤ n → n ≤ 126 → clean' (args c) →
      let i := fld (x 0).v 0 12
      let ports := (args c).drop 1
      let mem := bit (x 0).v 12
      (∀ y ∈ ports, y.v.toNat ≤ 95 ∨ y.v.toNat = 126 ∨ y.v.toNat = 127) → i + ports.length ≤ (if mem then 16 else 4096) →
      writes .route ((span (if mem then aB (0x1A0 + i)
        else 0x210000 + b2n (bit (reg b (aB 0x181)) 0 ^^ bit (x 0).v 13) * 0x1000 + i) ports.length).zip ports)) ∧
    (op = 0x0D → n = 2 → clean' (args c) → 1 ≤ (x 1).v.toNat → (x 0).v.toNat + (x 1).v.toNat ≤ 42 →
      Becomes st .calrd (done 0 (clean (reg b (aB 0x12A)) ::
        (span (x 0).v.toNat (x 1).v.toNat).map (fun k => clean (reg b (aB (0x100 + k))))) b)) ∧
    (op = 0x0E → 2 ≤ n → n ≤ 43 → clean' (args c) → (x 0).v.toNat + ((args c).drop 1).length ≤ 42 →
      let d := (args c).drop 1
      Becomes st .calwr (done 0 ((span (x 0).v.toNat d.length).map (fun k => clean (reg b (aB (0x100 + k)))))
        (each (fun k t => regWrite (cmdMaster c) (aB (0x100 + (x 0).v.toNat + k)) none (nth absentCell d k) t) (List.range d.length) b))) ∧
    (op = 0x11 → 2 ≤ n → clean' (args c) →
      let far := bit (x 0).v 13
      let bells := (args c).drop (if far then 3 else 1)
      bells ≠ [] → bells.length ≤ 124 →
      (far = false → Becomes st .event (done 0 [] (each (fun y d =>
        if fld y.v 0 9 = 0 ∨ nFields b ≤ fld y.v 11 3 then d else raise (fld y.v 11 3) (fld y.v 0 9) d) bells b))) ∧
      (far = true → bells.length ≤ 4 → Becomes st .event (done 0 [] (originate
        { typ := 6, dest := (x 2).v.extractLsb' 0 2 ++ (x 1).v, src := ownId b, tag := b.tb.slot, hop := 0, bc := bit (x 0).v 12,
          pay := packCells bells } b)))) ∧
    (op = 0x12 → n = 1 → (x 0).p = false →
      let g := fld (x 0).v 10 4
      let i := fld (x 0).v 0 7
      (12 ≤ g → Becomes st .counters (done 5 [] b)) ∧
      (g = 6 → i < nLinks b → bit (x 0).v 9 = true → Becomes st .counters (done 0
        [clean (reg b (aL i 5)), clean (reg b (aL i 6))] b)) ∧
      (g = 6 → i < nLinks b → bit (x 0).v 9 = false → Becomes st .counters (done 0
        [clean (reg b (aL i 5)), clean (reg b (aL i 6))] (setReg (aL i 6) 0 (setReg (aL i 5) 0 b))))) ∧
    (op = 0x10 → n = 2 → clean' (args c) →
      (modeOf b ≠ 2 → Becomes st .restore (done 7 [] b)) ∧
      (modeOf b = 2 → rangeOk a 5 = false → Becomes st .restore (done 5 [] b)) ∧
      (modeOf b = 2 → rangeOk a 5 = true → rangeTaken b c a 5 = true → Becomes st .restore (done 3 [] b)) ∧
      (modeOf b = 2 → rangeOk a 5 = true → rangeTaken b c a 5 = false →
        (isWindow a = true → mayWindow c b = true → Becomes st .restore (park { c with want := 3 } (askHost c (span a 3) b))) ∧
        (isWindow a = false → (∀ q ∈ span a 3, ¬ waits b q) → ∀ h d, stwReads c (span a 3) b = (h, d) →
          (readStatus h ≠ 0 → Becomes st .restore (done (readStatus h) [] d)) ∧
          (readStatus h = 0 → imageLen a (h.map (fun y => y.1)) = none → Becomes st .restore (done 5 [] d)) ∧
          (readStatus h = 0 → ∀ k, imageLen a (h.map (fun y => y.1)) = some k → (∀ q ∈ span (a + 3) (k - 3), ¬ waits d q) →
            ∀ l d2, stwReads c (span (a + 3) (k - 3)) d = (l, d2) →
            (readStatus l ≠ 0 → Becomes st .restore (done (readStatus l) [] d2)) ∧
            (readStatus l = 0 → imageRecords ((h ++ l).map (fun y => y.1.v)) = none → Becomes st .restore (done 5 [] d2)) ∧
            (∀ rs, readStatus l = 0 → imageRecords ((h ++ l).map (fun y => y.1.v)) = some rs → (∀ q ∈ rs.flatten, ¬ waits d2 q.1) →
              ∀ m made fail t, applyRecords c rs 0 false d2 = (m, made, fail, t) → t.stw.cur ≠ none →
                (fail = none → Becomes st .restore (done 0 [cleanN m, cleanN (m / 16384)] t)) ∧
                (∀ why q, fail = some (why, q) → Becomes st .restore (done (if made then 9 else why)
                  [cleanN m, cleanN (m / 16384), cleanN why, cleanN q, cleanN (q / 16384)] t))))))) ∧
    (∀ i o k, (i, o, k) ∈ [(Instr.ident, 0x02, 0), (.read, 0x03, 3), (.fill, 0x05, 5), (.mode, 0x06, 1), (.status, 0x07, 0), (.swapset, 0x09, 3),
        (.calrd, 0x0D, 2), (.clear, 0x0F, 1), (.restore, 0x10, 2), (.counters, 0x12, 1)] → op = o → n ≠ k → Becomes st i (done 5 [] b)) ∧
    (∀ i o lo hi, (i, o, lo, hi) ∈ [(Instr.write, 0x04, 3, 127), (.loadset, 0x08, 3, 127), (.route, 0x0B, 2, 126), (.calwr, 0x0E, 2, 43)] →
      op = o → n < lo ∨ hi < n → Becomes st i (done 5 [] b)) ∧
    (∀ i o, (i, o) ∈ [(Instr.ping, 0x01), (.ident, 0x02), (.read, 0x03), (.write, 0x04), (.fill, 0x05), (.mode, 0x06), (.status, 0x07),
        (.loadset, 0x08), (.swapset, 0x09), (.engineStop, 0x0A), (.engineStart, 0x0A), (.engineCtxrd, 0x0A), (.engineCtxwr, 0x0A),
        (.route, 0x0B), (.patchLreset, 0x0C), (.patchAppend, 0x0C), (.patchInstall, 0x0C), (.calrd, 0x0D), (.calwr, 0x0E),
        (.clear, 0x0F), (.restore, 0x10), (.event, 0x11), (.counters, 0x12)] → op ≠ o → Becomes st i b)

/-- R212, R447, R455 to R457, R463, R464, R468 to R470, R481: MODE, SWAPSET and PATCH INSTALL reply ACCEPTED and are deferred until what they
wait for has come about, or until their time is over; ENGINE stops, starts and examines an engine that no deferred ENGINE holds; PATCH
works the installer; CLEAR cancels pending swaps; and a deferred command that waited goes on, or times out.
The model's choices: which commands are deferred (log entry 41), and when a swap request has reached its unit (log entry 40). -/
def Obligations.StewardDefersAndSettles : Prop :=
  ∀ (st : State) (c : Cmd), Awake st.blk →
    let b := st.blk
    let w := b.stw
    let n := cmdLen c
    let x (i : Nat) := arg c i
    let done (status : Nat) (data : List BCell) (d : Blk) : Blk := reply c status data (onStw (fun s => { s with cur := none }) d)
    let later (op goal : Nat) (data : List BCell) (d : Blk) : Blk :=
      reply c 1 [] (onStw (fun s => { s with cur := none, defer := s.defer ++ [{ cmd := c, op := op, goal := goal, data := data }] }) d)
    let has (op : Nat) : Prop := w.cur = some c ∧ c.want = 0 ∧ c.late = false ∧ c.got = [] ∧ c.made = 0 ∧ cmdOp c = op
    let ended (d : Deferred) (status : Nat) (data : List BCell) : Blk :=
      reply d.cmd status data (onStw (fun s => { s with defer := s.defer.filter (fun y => y != d) }) b)
    (has 0x06 → n = 1 → (x 0).p = false →
      let t := fld (x 0).v 0 4
      (held b 0x06 = true → Becomes st .mode (done 3 [] b)) ∧
      (held b 0x06 = false → ∀ ok d, modeReq t b = (ok, d) →
        (ok = false → Becomes st .mode (done 7 [] d)) ∧
        (ok = true → modeOf d = t → Becomes st .mode (done 0 [clean (reg d (aB 0x000))] d)) ∧
        (ok = true → modeOf d ≠ t → Becomes st .mode (later 0x06 t [] d)))) ∧
    (has 0x09 →
      (∀ s, swapRefused c b = some s → Becomes st .swapset (done s [] b)) ∧
      (swapRefused c b = none → Becomes st .swapset (later 0x09 c.num [clean (x 1).v, clean (x 2).v] (sendSwaps c c.num b)) ∧
        ∀ f k, f < 8 → k ≠ 2 → k < 5 → bit (x 0).v (6 + f) = true → bit (x 0).v k = true →
          Reaches st .swapset (fun t => ∃ q ∈ (fieldOf t f).swaps, q.kind = k ∧ q.slot = (x 1).v ∧ q.sweep = (x 2).v))) ∧
    (has 0x0A → ∀ e, e = fld (x 0).v 0 6 →
      let tw := isTwin b e
      let rows : List (Instr × Nat × Nat) := [(.engineStop, 0, 1), (.engineStart, 1, 1), (.engineCtxrd, 2, 2), (.engineCtxwr, 3, if tw then 4 else 3)]
      let fits (k len : Nat) : Prop := fld (x 0).v 11 3 = k ∧ e < nEngines b ∧ isOdd b e = false ∧ n = len
      let free : Prop := engineHeld b e = false ∧ modeOf b ≠ 9 ∧ clocked b (e / 8) = true
      let run (v : Bool) : Blk := setReg (aE e 0x00) ((reg b (aE e 0x00) &&& ~~~0x0F01) |||
        ((if 4 ≤ fld (reg b (aE e 0x00)) 8 3 then putf (putb (reg b (aE e 0x00)) 11 v) 8 3 7 else putb (reg b (aE e 0x00)) 11 v) &&& 0x0F01)) b
      let estat (d : Blk) : BCell := regValue d .steward (aE e 0x01)
      (∀ i k len, (i, k, len) ∈ rows →
        (fld (x 0).v 11 3 ≠ k → Becomes st i b) ∧
        (fld (x 0).v 11 3 = k → nEngines b ≤ e ∨ isOdd b e = true ∨ n ≠ len → Becomes st i (done 5 [] b)) ∧
        (fits k len → 2 ≤ k → (x 1).p = true → Becomes st i (done 8 [] b)) ∧
        (fits k len → k < 2 ∨ (x 1).p = false → engineHeld b e = true → Becomes st i (done 3 [] b)) ∧
        (fits k len → k < 2 ∨ (x 1).p = false → engineHeld b e = false → modeOf b = 9 ∨ clocked b (e / 8) = false →
          Becomes st i (done 7 [] b))) ∧
      (free → fits 0 1 →
        let d := onEng e (fun y => { y with coast := (y.coast || runBit b e) && !y.mchk, mchk := false }) (run false)
        (engStopped d e = true → Becomes st .engineStop (done 0 [estat d] d)) ∧
        (engStopped d e = false → Becomes st .engineStop (park { c with made := 1 } d))) ∧
      (free → fits 1 1 →
        let d := onEng e (fun y => { y with coast := false }) (run true)
        Becomes st .engineStart (done 0 [estat d] d)) ∧
      (free → fits 2 2 → (x 1).p = false → (engOf b e).lops = [] →
        let y := if 4 < fld (x 1).v 11 3 then (0, true) else ctxReg b e (fld (x 1).v 11 3) (fld (x 1).v 0 6)
        ∃ d, Becomes st .engineCtxrd (done (if y.2 then 8 else 0) (estat b :: { v := lo14 y.1, p := y.2 } ::
            (if tw then [{ v := hi14 y.1, p := y.2 }] else [])) d) ∧
          (∀ a, reg d a = reg b a) ∧ ∀ i k, ctxOf d i k = ctxOf b i k) ∧
      (free → fits 3 (if tw then 4 else 3) → (x 1).p = false → (engOf b e).lops = [] →
        let cx := fld (x 1).v 11 3
        let i := fld (x 1).v 0 6
        let v : BitVec 28 := if tw then pair (x 2).v (x 3).v else (x 2).v.setWidth 28
        let bad : Prop := (x 2).p = true ∨ (tw = true ∧ (x 3).p = true)
        (bad → Becomes st .engineCtxwr (done 8 [estat b] b)) ∧
        (¬ bad → cx ≤ 4 → i < 40 → (engOf b e).halted = false → (executing b e cx && (busyIdx i || decide (0 < (engOf b e).hmNeed))) = false →
          ∃ d, Becomes st .engineCtxwr (done 0 [estat d] d) ∧ reg d (aE e 0x02) = reg b (aE e 0x02) ∧
            Woken (putCtx cx i (wid tw v) false (ctxOf b e cx)) (ctxOf d e cx) ∧ ∀ k, k ≠ cx → Woken (ctxOf b e k) (ctxOf d e k)) ∧
        (¬ bad → cx ≤ 4 → executing b e cx = true → busyIdx i = false → 0 < (engOf b e).hmNeed →
          ∃ d, Becomes st .engineCtxwr (done 0 [estat d] d) ∧ (engOf d e).ctxq = (engOf b e).ctxq ++ [(i, v, false)] ∧
            ∀ j k, ctxOf d j k = ctxOf b j k) ∧
        (¬ bad → cx ≤ 4 → (executing b e cx && busyIdx i) = true →
          ∃ d, Becomes st .engineCtxwr (done 7 [estat d] d) ∧ ∀ j k, ctxOf d j k = ctxOf b j k))) ∧
    (has 0x0C → held b 0x0C = false → b.mc.busy = false →
      ((x 0).v = 0 → Becomes st .patchLreset (done 0 [] (onMc (fun y => { y with stage := [] }) b))) ∧
      ((x 0).v = 1 → (∀ y ∈ (args c).drop 1, y.p = false) → b.mc.stage.length + ((args c).drop 1).length ≤ 364 →
        Becomes st .patchAppend (done 0 [] (onMc (fun y => { y with stage := y.stage ++ (args c).drop 1 }) b))) ∧
      ((x 0).v = 2 → modeOf b ≠ 2 → Becomes st .patchInstall (done 7 [regValue b .steward (aB 0x205)] b)) ∧
      ((x 0).v = 2 → modeOf b = 2 → Becomes st .patchInstall (later 0x0C 0 [] (onMc (fun y => { y with busy := true }) b)))) ∧
    (has 0x0F → n = 1 → (x 0).p = false →
      ((x 0).v = 0 → Becomes st .clear (done 0 [clean 0] b)) ∧
      ((x 0).v = 4 → Becomes st .clear (done 0 [clean 0]
        (setReg (aB 0x14C) 0 (setReg (aB 0x14B) 0 (setReg (aB 0x14A) 0 (setReg (aB 0x149) 0 b)))))) ∧
      ((x 0).v = 2 → c.frame = false → Reaches st .clear (fun t => (∀ f, f < nFields b → clocked b f = true → reg t (aF f 0x001) &&& 0x00DE = 0) ∧
        (∀ l, l < nLinks b → reg t (aL l 1) &&& 0x38 = 0) ∧ t.stw.cur = none ∧ t.stw.defer = w.defer)) ∧
      ((x 0).v = 1 → ∀ d, w.defer = [d] → d.op = 0x09 → swapOpen b d.goal = true → swapUnreached b d.goal = true →
        Becomes st .clear (done 0 [clean 1] (reply d.cmd 10 [] (onStw (fun s => { s with defer := [] }) (dropSwap d.goal b)))) ∧
        ∀ f, ∀ q ∈ (fieldOf (dropSwap d.goal b) f).swaps, q.id ≠ d.goal)) ∧
    (∀ i, (w.defer[i]? = none → Becomes st (.deferredDone i) b ∧ Becomes st (.deferredTimeout i) b) ∧
      ∀ d, w.defer[i]? = some d →
      (d.op = 0x06 → (modeOf b = d.goal → Becomes st (.deferredDone i) (ended d 2 [clean (reg b (aB 0x000))])) ∧
        (modeOf b ≠ d.goal → modeUnderWay b d.goal = true → Becomes st (.deferredDone i) b) ∧
        (modeOf b ≠ d.goal → modeUnderWay b d.goal = false → Becomes st (.deferredDone i) (ended d 7 []))) ∧
      (d.op = 0x09 → (swapOpen b d.goal = true → Becomes st (.deferredDone i) b) ∧
        (swapOpen b d.goal = false → Becomes st (.deferredDone i) (ended d 2 d.data)) ∧ Becomes st (.deferredTimeout i) b) ∧
      (d.op = 0x0C → (b.mc.busy = true → Becomes st (.deferredDone i) b) ∧
        (b.mc.busy = false →
          let r := fld (reg b (aB 0x205)) 0 4
          Becomes st (.deferredDone i) (ended d (if r = 1 then 2 else if r = 6 then 7 else if r = 4 then 6 else 5)
            [regValue b .steward (aB 0x205)]))) ∧
      (d.op ≠ 0x06 → d.op ≠ 0x09 → d.op ≠ 0x0C → Becomes st (.deferredDone i) (resume d.cmd b) ∧
        (d.cmd.got.length < d.cmd.want → Becomes st (.deferredDone i) b)) ∧
      (d.op ≠ 0x09 → Becomes st (.deferredTimeout i) (ended d 10 [])))

/-! Memories, the host ports and the debug island (chapters 13, 17 and 18). -/

/-- R407, R408, R411: the stored word of a cell decodes clean to that cell; with any one bit flipped it decodes to the same cell, or to
poison where one set bit alone remains; with any two bits flipped it delivers P = 1; and the all-zero word is the poison pattern. -/
def Obligations.SingleErrorsAreCorrectedDoubleErrorsDetected : Prop :=
  (∀ d : BitVec 14,
    eccDecode (storedWord d) = { cls := .clean, cell := clean d, synd := 0 } ∧
    (∀ i, i < 20 →
      let w := storedWord d ^^^ ((1 : BitVec 20) <<< i)
      (ones w ≠ 1 → (eccDecode w).cls = .correctable ∧ (eccDecode w).cell = clean d) ∧
      (ones w = 1 → (eccDecode w).cls = .uncorrectable ∧ (eccDecode w).cell.p = true)) ∧
    (∀ i j, i < j → j < 20 →
      let w := storedWord d ^^^ ((1 : BitVec 20) <<< i) ^^^ ((1 : BitVec 20) <<< j)
      ((eccDecode w).cls = .uncorrectable ∨ (eccDecode w).cls = .poison) ∧ (eccDecode w).cell.p = true)) ∧
  (∀ w : BitVec 20, (eccDecode w).cls = .poison ↔ w = 0) ∧ wordOf absentCell = 0

/-- R231, R400 to R402, R405, R410, R411, R413, R417 to R422, R424, R493, R509 to R513: the host's reads and writes are made as bus
accesses unless a locked range holds them back; what they leave of field memory under the regions' permissions, the flip mask and a
store of port A to the word; the 28 bits of a latched pair; what a response or a time-out of the master port leaves for each master;
the queued write-back, the sinter's steps and its maintenance reads.
The model's choices: the host takes each response at once (log entry 44), a block in hand is finished after EN is cleared (log entry
43), and whether two stores to a word fell into one field cycle is free (log entry 108). -/
def Obligations.HostPortsFieldMemoryAndSinter : Prop :=
  ∀ (st : State) (f off : Nat) (c c2 : BCell), st.blk.md.off = false → f < 8 → off < 0x10000 →
    let b := st.blk
    let a := f * 0x10000 + off
    let g := fieldOf b f
    let answer (r : HtRsp) (d : Blk) : Blk := onHost (fun h => { h with rsp := [r] }) d
    let others (t : Blk) : Prop := ∀ q, q ≠ a → rawWord t q = rawWord b q
    let kept (t : Blk) : Prop := ∀ q, q < 0x220000 → rawWord t q = rawWord b q
    let meets : Prop := ∃ d, g.lastA = some (off, d) ∧ normCell d ≠ normCell c
    let mask := (reg b (aF f 0x1C3)).extractLsb' 0 6 ++ reg b (aF f 0x1C2)
    let armed : Prop := bit (reg b (aF f 0x1C3)) 13 = true
    let more (t : Blk) (r : Nat) : Prop := (reg t (aF f r)).toNat = min 16383 ((reg b (aF f r)).toNat + 1)
    (b.md.warm = true → ∀ q two,
      (b.host.htq.length < 8 →
        Becomes st (.hostTargetRead q two) (onHost (fun h => { h with htq := h.htq ++ [(q, two, none)] }) b) ∧
        Becomes st (.hostTargetWrite q two c c2) (onHost (fun h => { h with htq := h.htq ++ [(q, two, some (c, c2))] }) b)) ∧
      (8 ≤ b.host.htq.length → Becomes st (.hostTargetRead q two) b ∧ Becomes st (.hostTargetWrite q two c c2) b)) ∧
    (b.md.warm = false →
      (∀ q two, mustWait b .host q = true ∨ (two = true ∧ mustWait b .host ((q + 1) % 2 ^ 28) = true) →
        Becomes st (.hostTargetRead q two) b ∧ Becomes st (.hostTargetWrite q two c c2) b) ∧
      (∀ q, mustWait b .host q = false →
        let x := busRead .host q b
        let y := busStore .host q none c b
        let err (n : Nat) : Nat := if n = 3 then 1 else n
        Becomes st (.hostTargetRead q false) (answer { a := x.1, b := clean 0, err := x.2.1 } x.2.2) ∧
        Becomes st (.hostTargetWrite q false c c2) (answer { a := clean 0, b := clean 0, err := err y.1 } y.2) ∧
        (mustWait b .host ((q + 1) % 2 ^ 28) = false →
          let x2 := busRead .host ((q + 1) % 2 ^ 28) x.2.2
          let y2 := busStore .host ((q + 1) % 2 ^ 28) none c2 y.2
          Becomes st (.hostTargetWrite q true c c2) (answer { a := clean 0, b := clean 0, err := max (err y.1) (err y2.1) } y2.2) ∧
          (regHere b q = false ∨ atOdd b q = true ∨ wideAt (lookAt q b) q = none →
            Becomes st (.hostTargetRead q true) (answer { a := x.1, b := x2.1, err := max x.2.1 x2.2.1 } x2.2.2)))) ∧
      (∀ q, 0x1000000 ≤ q → Becomes st (.hostTargetRead q false) (answer { a := absentCell, b := clean 0, err := 1 } b) ∧
        Becomes st (.hostTargetWrite q false c c2) (answer { a := clean 0, b := clean 0, err := 1 } b)) ∧
      (∀ q v, regHere b q = true → atOdd b q = false → wideAt (lookAt q b) q = some v → Becomes st (.hostTargetRead q true)
        (answer { a := clean (lo14 v), b := clean (hi14 v), err := 0 } (setLatch .host (q + 1) (hi14 v) (lookAt q b)))) ∧
      (heldByAny b a = false → clocked b f = true → g.clearing = false → g.sinter.phase = 0 → stuckMask b (.fieldMem f off) = 0 →
        (2 ≤ permOf b f off 9 → ¬ meets →
          (¬ armed → Reaches st (.hostTargetWrite a false c c2) (fun t =>
            rawWord t a = wordOf c ∧ others t ∧ t.host.rsp = [{ a := clean 0, b := clean 0, err := 0 }] ∧
            (∀ q, reg t q = reg b q) ∧ peekMem t (.fieldMem f off) = (if c.p then absentCell else clean c.v))) ∧
          (armed → Reaches st (.hostTargetWrite a false c c2) (fun t =>
            rawWord t a = wordOf c ^^^ mask ∧ others t ∧ reg t (aF f 0x1C2) = 0 ∧ reg t (aF f 0x1C3) = 0))) ∧
        (2 ≤ permOf b f off 9 → meets → ¬ armed → Reaches st (.hostTargetWrite a false c c2) (fun t =>
          if Config.sameCycle b.free then
            kept t ∧ t.host.rsp = [{ a := clean 0, b := clean 0, err := 1 }] ∧ more t 0x1D0 ∧ bit (reg t (aF f 0x1C1)) 1 = true
          else rawWord t a = wordOf c ∧ others t ∧ t.host.rsp = [{ a := clean 0, b := clean 0, err := 0 }])) ∧
        (permOf b f off 9 < 2 → Reaches st (.hostTargetWrite a false c c2) (fun t =>
          kept t ∧ t.host.rsp = [{ a := clean 0, b := clean 0, err := 1 }] ∧ more t 0x1D1 ∧
          bit (reg t (aF f 0x1C1)) 4 = true ∧ reg t (aF f 0x1CA) = BitVec.ofNat 14 (off % 0x4000))) ∧
        (permOf b f off 9 = 0 → Reaches st (.hostTargetRead a false) (fun t =>
          kept t ∧ t.host.rsp = [{ a := absentCell, b := clean 0, err := 1 }] ∧ more t 0x1D1)) ∧
        (1 ≤ permOf b f off 9 → ∀ d, rawWord b a = storedWord d →
          Becomes st (.hostTargetRead a false) (answer { a := clean d, b := clean 0, err := 0 } b)))) ∧
    (let ends (i : Instr) (d : Blk) (cells : List BCell) (err : Bool) : Prop := ∀ q r, b.host.hm = q :: r →
      let took := onHost (fun h => { h with hm := r }) d
      let took := if err then orReg (aB 0x01B) 1 (count (aB 0x021) took) else took
      let cell (n : Nat) : BCell := if err then absentCell else nth absentCell cells n
      (q.m = .host → Becomes st i took) ∧
      (q.m = .debug → Becomes st i (onAcc (fun y => { y with
        pend := none, result := if err then 2 else 0, cell := if q.wr then clean 0 else cell 0 }) took)) ∧
      (q.m = .steward ∨ q.m = .linkDma → Becomes st i (if q.wr then took else windowCell q.ctx (cell 0) took)) ∧
      (∀ e, q.m = .engine e →
        (q.wr = true ∨ q.dead = true ∨ (engOf b e).hmNeed = 0 → Becomes st i took) ∧
        (q.wr = false → q.dead = false → (engOf b e).hmNeed ≠ 0 →
          Becomes st i (onEng e (fun x => { x with hmGot := x.hmGot ++ if q.two then [cell 0, cell 1] else [cell 0] }) took)))
     (∀ cells err,
       (0 < b.host.drop → Becomes st (.hmResponse cells err) (onHost (fun h => { h with drop := h.drop - 1 }) b)) ∧
       (b.host.drop = 0 → b.host.hm = [] → Becomes st (.hmResponse cells err) b) ∧
       (b.host.drop = 0 → ends (.hmResponse cells err) b cells err)) ∧
     (b.host.hm = [] → Becomes st .hmTimeout b) ∧
     ends .hmTimeout (onHost (fun h => { h with drop := h.drop + 1 }) (orReg (aB 0x01B) 2 b)) [] true) ∧
    (g.wback = none → Becomes st (.eccWriteback f) b) ∧
    (∀ d, g.wback = some (off, d) → (clocked b f = false ∨ heldByAny b a = true → Becomes st (.eccWriteback f) b) ∧
      (clocked b f = true → heldByAny b a = false →
        Becomes st (.eccWriteback f) (storeMem (.fieldMem f off) (clean d) (onField f (fun x => { x with wback := none }) b)) ∧
        (g.clearing = false → g.sinter.phase = 0 → stuckMask b (.fieldMem f off) = 0 → Reaches st (.eccWriteback f) (fun t =>
          others t ∧ (fieldOf t f).wback = none ∧ (¬ armed → rawWord t a = storedWord d) ∧ (armed → rawWord t a = storedWord d ^^^ mask))))) ∧
    (clocked b f = false ∨ frozen b f = true ∨ g.clearing = true → Becomes st (.sinterStep f) b) ∧
    (clocked b f = true → frozen b f = false → g.clearing = false →
      let s := g.sinter
      let k := s.block
      let scan := bit (reg b (aF f 0x1C4)) 13
      let next := ((List.range (2048 - k)).map (fun i => k + i) ++ List.range k).find? (scanned b f)
      (s.phase = 0 → scan = false ∨ next = none → Becomes st (.sinterStep f) b) ∧
      (s.phase = 0 → scan = true → ∀ n, next = some n →
        (n < k → Reaches st (.sinterStep f) (fun t => more t 0x1D4)) ∧
        (blockHeld b f n = true → Reaches st (.sinterStep f) (fun t => (fieldOf t f).sinter = { s with block := n })) ∧
        (blockHeld b f n = false → Reaches st (.sinterStep f) (fun t => (fieldOf t f).sinter.phase = 1 ∧ (fieldOf t f).sinter.stp = 1 ∧
          (fieldOf t f).sinter.block = n ∧ (fieldOf t f).sinter.shadow.length = 8))) ∧
      (s.phase = 1 → (s.stp = 0 ∧ blockHeld b f k = true) ∨ stepHeld b f k s.stp = true → Becomes st (.sinterStep f) b) ∧
      (s.phase = 1 → ¬ (s.stp = 0 ∧ blockHeld b f k = true) → stepHeld b f k s.stp = false → Reaches st (.sinterStep f) (fun t =>
        (fieldOf t f).sinter.shadow.length = s.shadow.length + 8 ∧ (fieldOf t f).sinter.block = k ∧
        if s.stp = 3 then (fieldOf t f).sinter.phase = 2 ∧ (fieldOf t f).sinter.stp = 0
        else (fieldOf t f).sinter.phase = 1 ∧ (fieldOf t f).sinter.stp = s.stp + 1)) ∧
      (s.phase = 2 → stepHeld b f k (marchGroup s.stp) = true → Becomes st (.sinterStep f) b) ∧
      (s.phase = 2 → stepHeld b f k (marchGroup s.stp) = false →
        (marchFault b f = false ∨ s.cancelled = true ∨ s.faulted = true → Becomes st (.sinterStep f) (onField f (fun x => { x with
          sinter := { x.sinter with phase := if s.stp = 39 then 3 else 2, stp := if s.stp = 39 then 0 else s.stp + 1 } }) b)) ∧
        (marchFault b f = true → s.cancelled = false → s.faulted = false → Reaches st (.sinterStep f) (fun t =>
          (fieldOf t f).sinter.faulted = true ∧ bit (reg t (aF f 0x1C1)) 5 = true ∧ reg t (aF f 0x1CC) = BitVec.ofNat 14 k ∧ more t 0x1D2))) ∧
      (3 ≤ s.phase → stepHeld b f k s.stp = true → Becomes st (.sinterStep f) b) ∧
      (3 ≤ s.phase → stepHeld b f k s.stp = false → g.bad = [] → k < 2048 → s.stp ≤ 3 → Reaches st (.sinterStep f) (fun t =>
        (∀ i, i < 8 → rawWord t (f * 0x10000 + 32 * k + 8 * s.stp + i) = wordOf (nth absentCell s.shadow (8 * s.stp + i))) ∧
        (s.stp < 3 → (fieldOf t f).sinter = { s with stp := s.stp + 1 }) ∧
        (s.stp = 3 → s.cancelled = false → (fieldOf t f).sinter = { Sinter.cold with block := (k + 1) % 2048 }) ∧
        (s.stp = 3 → s.cancelled = true → s.tries + 1 < max 1 (fld (reg b (aF f 0x1C4)) 8 2) →
          (fieldOf t f).sinter.phase = 1 ∧ (fieldOf t f).sinter.stp = 0 ∧ (fieldOf t f).sinter.block = k ∧
          (fieldOf t f).sinter.tries = s.tries + 1) ∧
        (s.stp = 3 → s.cancelled = true → max 1 (fld (reg b (aF f 0x1C4)) 8 2) ≤ s.tries + 1 →
          (fieldOf t f).sinter = { Sinter.cold with block := (k + 1) % 2048 } ∧ more t 0x1D3)))) ∧
    (∀ q,
      let at_ (d : Blk) : Blk := onField f (fun x => { x with mpos := q + 1 }) d
      let quiet (x : Nat) : Prop := maintMem b f x = none ∨ (eccDecode (rawWord b x)).cls = .clean ∨ (eccDecode (rawWord b x)).cls = .poison
      (maintMem b f q = none ∨ bit (reg b (aF f 0x1C4)) 13 = false ∨ frozen b f = true ∨ clocked b f = false →
        Becomes st (.sinterMaintRead f q) b) ∧
      (∀ m, maintMem b f q = some m → bit (reg b (aF f 0x1C4)) 13 = true → frozen b f = false → clocked b f = true →
        (∀ x ∈ maintWay b f q, quiet x) →
        (quiet q → Becomes st (.sinterMaintRead f q) (at_ b)) ∧
        ((eccDecode (rawWord b q)).cls = .correctable → stuckMask b m = 0 → Reaches st (.sinterMaintRead f q) (fun t =>
          rawWord t q = storedWord (eccDecode (rawWord b q)).cell.v ∧ (fieldOf t f).mpos = q + 1 ∧
          min 16383 ((reg b (aF f 0x1CD)).toNat + 1) ≤ (reg t (aF f 0x1CD)).toNat))))

/-- R523 to R535: UPDATE_IR selects a data register, an unlisted value BYPASS; IDCODE and DSTAT are captured; a CHAL capture reads the
key once and forms the challenge; a RESP update that matches grants its level, and one that does not locks out, counts and raises;
ACC launches one operation at a time as LEVEL permits; and ACC_COMPLETE makes the access, with or without PORESET_N, as a bus access of
the debug master. Whether two stores to a word fell into one field cycle is free (log entry 108), and a configuration that the island
cannot read is plain data (log entry 121). -/
def Obligations.DebugIslandAnswers : Prop :=
  ∀ (st : State) (ir : BitVec 5) (tck : BitVec 36) (fp : Bool) (words : List (BitVec 15)) (q : BitVec 8) (r : BitVec 112) (c : BCell)
    (op : BitVec 3) (a : Nat),
    let b := st.blk
    let x := b.auth
    let acc := b.tap.acc
    let dr (n : Nat) (d : Blk) : Blk := onTap (fun t => { t with dr := BitVec.ofNat 120 n }) d
    let has (n : Nat) : Prop := b.tap.ir.toNat = n
    Becomes st (.updateIr ir) (onTap (fun t => { t with ir := if ir.toNat ∈ [0x01, 0x02, 0x08, 0x09, 0x0A] then ir else 0x1F }) b) ∧
    (has 0x01 → Becomes st .idcodeCapture (dr (if b.md.dark then 0x5A43 * 2 ^ 12 + Config.manufacturer.toNat * 2 + 1
      else Config.step.toNat % 16 * 2 ^ 28 + (0x5A40 + b.cfg.size) * 2 ^ 12 + Config.manufacturer.toNat * 2 + 1) b)) ∧
    (¬ has 0x01 → Becomes st .idcodeCapture b) ∧
    (has 0x02 → Becomes st .dstatCapture (dr (x.level * 2 ^ 14 + b2n x.nokey * 2 ^ 13 + b2n x.lockout * 2 ^ 12 + b2n x.barred * 2 ^ 11 +
      b2n (!b.md.off && !b.md.dark) * 2 ^ 10 + acc.result * 2 ^ 7 + x.fails) b)) ∧
    (¬ has 0x02 → Becomes st .dstatCapture b) ∧
    (let ch : BitVec 112 := x.ctr ++ (if b.md.off then 0 else b.tb.runtime) ++ tck
     let chal (y : Auth) : State := st.put (dr ch.toNat { b with auth := { y with ctr := x.ctr + 1, chal := some ch } })
     (¬ has 0x08 → exec (.chalCapture tck fp words) st = .next st) ∧
     (has 0x08 → x.lockout = true ∨ x.barred = true → exec (.chalCapture tck fp words) st = .next (st.put (dr 0 b))) ∧
     (has 0x08 → x.lockout = false → x.barred = false →
       (∀ k, x.key = some k → exec (.chalCapture tck fp words) st = .next (chal x)) ∧
       (x.key = none → fp = false → exec (.chalCapture tck fp words) st = .next (chal { x with key := some 0, nokey := true })) ∧
       (x.key = none → fp = true → b.md.off = true ∨ b.md.fuseWait = true → exec (.chalCapture tck fp words) st = .next st) ∧
       (x.key = none → fp = true → b.md.off = false → b.md.fuseWait = false →
         (∀ i, i < 19 → bit (nth 0x4000 words i) 14 = false) →
         exec (.chalCapture tck fp words) st = .next (chal { x with key := some (BitVec.ofNat 256
           (sumN ((List.range 19).map (fun i => fld (nth 0 words i) 0 14 * 2 ^ (14 * i))))) })) ∧
       (x.key = none → fp = true → b.md.off = false → b.md.fuseWait = false → (∃ i, i < 19 ∧ bit (nth 0x4000 words i) 14 = true) →
         exec (.chalCapture tck fp words) st = .next (st.put (dr 0 b))))) ∧
    ((¬ has 0x09 → exec (.respUpdate q r) st = .next st) ∧
     (has 0x09 → q = 0 → exec (.respUpdate q r) st = .next (st.put { b with auth := { x with level := 0, chal := none } })) ∧
     (has 0x09 → ∀ k ch, x.key = some k → x.chal = some ch → q = 1 ∨ q = 2 → r = wanted k ch q →
       exec (.respUpdate q r) st = .next (st.put { b with auth := { x with level := q.toNat, fails := 0, chal := none } })) ∧
     (has 0x09 → q ≠ 0 → (∀ k ch, x.key = some k → x.chal = some ch → ¬ (q = 1 ∨ q = 2) ∨ r ≠ wanted k ch q) →
       let y : Auth := { x with
         level := 0, fails := min 15 (x.fails + 1), lockout := true, barred := x.barred || decide (8 ≤ x.fails + 1), chal := none }
       (b.md.off = true → exec (.respUpdate q r) st = .next (st.put { b with auth := y })) ∧
       (b.md.off = false → exec (.respUpdate q r) st = .next (st.put { stwRaise 490 { b with auth := y } with auth := y })))) ∧
    exec .lockoutExpire st = .next (st.put { b with auth := { x with lockout := false } }) ∧
    Becomes st (.accNop op) b ∧
    (∀ i o z v, (i, o, z, v) ∈ [(Instr.accRead a, 1, a, clean 0), (.accWrite a c, 2, a, c), (.accReadNext, 1, (acc.addr + 1) % 2 ^ 28, clean 0),
        (.accWriteNext c, 2, (acc.addr + 1) % 2 ^ 28, c)] →
      (¬ has 0x0A → Becomes st i b) ∧
      (has 0x0A → acc.pend ≠ none → Becomes st i (onAcc (fun y => { y with busy := true }) b)) ∧
      let monitor : Prop := z = aB 0x305 ∨ (0x0F10000 ≤ z ∧ z < 0x0F18000 ∧ 0x2A0 ≤ z % 0x1000 ∧ z % 0x1000 < 0x2A3)
      let may : Prop := x.level = 2 ∨ (x.level = 1 ∧ ((o = 1 ∧ z < 0x1000000) ∨ (o = 2 ∧ monitor)))
      (has 0x0A → acc.pend = none → may →
        Becomes st i (onAcc (fun y => { y with addr := z, pend := some (o, v) }) b)) ∧
      (has 0x0A → acc.pend = none → ¬ may →
        Becomes st i (onAcc (fun y => { y with addr := z, result := 3, cell := if o = 2 then clean 0 else absentCell }) b))) ∧
    ((¬ has 0x0A → Becomes st .accCapture b) ∧
     (has 0x0A → Becomes st .accCapture (onTap (fun t => { t with
       dr := BitVec.ofNat 120 ((if acc.pend.isSome then 1 else if acc.busy then 6 else acc.result) * 2 ^ 45 + acc.addr % 2 ^ 28 * 2 ^ 15 +
         b2n acc.cell.p * 2 ^ 14 + acc.cell.v.toNat)
       acc := { acc with busy := acc.busy && acc.pend.isSome } }) b))) ∧
    (acc.pend = none → Becomes st .accComplete b) ∧
    (∀ o v, acc.pend = some (o, v) → o = 1 ∨ o = 2 →
      let z := acc.addr
      let idle := onAcc (fun y => { y with pend := none }) b
      let ends (n : Nat) (w : BCell) (d : Blk) : Blk := onAcc (fun y => { y with pend := none, result := n, cell := w }) d
      let op (n : Nat) : BCell := if o = 2 then clean 0 else if n = 0 then clean 0 else absentCell
      (b.md.off = true → z < aB 0x000 ∨ aB 0x400 ≤ z ∨ (aB 0x040 ≤ z ∧ z < aB 0x300) → Becomes st .accComplete (ends 5 (op 1) b)) ∧
      (b.md.off = true → aB 0x000 ≤ z → z < aB 0x040 → Becomes st .accComplete (ends 0 (op (z - aB 0x000)) b)) ∧
      (b.md.off = true → aB 0x300 ≤ z → z < aB 0x400 →
        (o = 1 → Becomes st .accComplete (ends 0 (regRead .debug z b).1 (regRead .debug z b).2)) ∧
        (o = 2 → z = aB 0x303 ∨ z = aB 0x304 → Becomes st .accComplete (ends 0 (clean 0) b)) ∧
        (o = 2 → z ≠ aB 0x303 → z ≠ aB 0x304 → Becomes st .accComplete (ends 0 (clean 0) (regWrite .debug z none v b)))) ∧
      (b.md.off = false → b.md.warm = true ∨ mustWait b .debug z = true → Becomes st .accComplete b) ∧
      (b.md.off = false → b.md.warm = false → mustWait b .debug z = false →
        (0x1000000 ≤ z → Becomes st .accComplete (onAcc (fun y => { y with pend := some (o + 2, v) }) (onHost (fun h => { h with
          hm := h.hm ++ [{ m := .debug, a := z, wr := decide (o = 2), cells := if o = 2 then [v] else [], two := false, dead := false }] }) b))) ∧
        (z < 0x1000000 →
          (o = 1 → let x := busRead .debug z idle
            Becomes st .accComplete (ends (if x.2.1 = 1 then 2 else 0) x.1 x.2.2)) ∧
          (o = 2 → let x := busStore .debug z none v idle
            Becomes st .accComplete (ends (if x.1 = 1 then 2 else if x.1 = 3 then 4 else 0) (clean 0) x.2))) ∧
        (o = 1 → 0x0F00000 ≤ z → z < 0x1000000 → readsAct b .debug = false → z ≠ aB 0x1C5 →
          Becomes st .accComplete (ends 0 (regValue idle .debug z) idle)) ∧
        (o = 1 → 0x0F00000 ≤ z → z < 0x1000000 → readsAct b .debug = true →
          Becomes st .accComplete (ends 0 (regRead .debug z idle).1 (regRead .debug z idle).2)) ∧
        (o = 2 → 0x0F00000 ≤ z → z < 0x1000000 → v.p = false ∨ regHere b z = true →
          Becomes st .accComplete (ends 0 (clean 0) (regWrite .debug z none v idle))) ∧
        (∀ f off, z = f * 0x10000 + off → f < 8 → off < 0x10000 → clocked b f = true →
          (fieldOf b f).clearing = false → (fieldOf b f).sinter.phase = 0 →
          let meets : Prop := ∃ d, (fieldOf b f).lastA = some (off, d) ∧ normCell d ≠ normCell v
          let done (t : Blk) (n : Nat) : Prop := t.tap.acc.result = n ∧ t.tap.acc.pend = none
          let kept (t : Blk) : Prop := ∀ w, w < 0x220000 → rawWord t w = rawWord b w
          let stored (t : Blk) : Prop := rawWord t z = wordOf v ∧ ∀ w, w ≠ z → rawWord t w = rawWord b w
          (o = 1 → permOf b f off 10 = 0 → Reaches st .accComplete (fun t => done t 2 ∧ t.tap.acc.cell = absentCell ∧ kept t)) ∧
          (o = 2 → permOf b f off 10 < 2 → Reaches st .accComplete (fun t => done t 2 ∧ kept t)) ∧
          (o = 1 → 1 ≤ permOf b f off 10 → ∀ d, rawWord b z = storedWord d → Becomes st .accComplete (ends 0 (clean d) b)) ∧
          (o = 2 → 2 ≤ permOf b f off 10 → stuckMask b (.fieldMem f off) = 0 → bit (reg b (aF f 0x1C3)) 13 = false →
            (¬ meets → Reaches st .accComplete (fun t => stored t ∧ done t 0)) ∧
            (meets → Reaches st .accComplete (fun t =>
              if Config.sameCycle b.free then kept t ∧ done t 4 else stored t ∧ done t 0)))))) ∧
    (∀ o v, acc.pend = some (o + 2, v) → 1 ≤ o → b.md.off = false → 0x1000000 ≤ acc.addr → o ≤ 2 → Becomes st .accComplete b)

/-! The whole block. -/

/-- The queue (log entries 3 and 2): a step takes the command at the front and runs it on the state with the queue's rest; on an empty queue
nothing happens. Every command answers a next state and leaves the queue to the step. R501: while PORESET_N is asserted, no command
but those of the reset pins and of the debug island does anything. -/
def Obligations.StepRunsTheFrontCommand : Prop :=
  (∀ (c : Instr) (s : State) (q : List Instr), step { s with pending := c :: q } = exec c { s with pending := q }) ∧
  (∀ s : State, s.pending = [] → step s = .next s) ∧
  (∀ (c : Instr) (s : State), ∃ b, exec c s = .next { s with blk := b }) ∧
  (∀ (c : Instr) (s : State), s.blk.md.off = true → actsInReset c = false → exec c s = .next s)

/-- R14, R410, R490, R501, R526 to R530 (log entries 1 and 3): after reset no command waits; the mode is COLD with the cause power-on, every
register holds its cold value, no memory word is listed, every unit is in its cold state with its clear and the fuse load to
come, and nobody is authenticated. -/
def Obligations.ResetLeavesTheBlockCold : Prop :=
  let s := State.reset
  let b := s.blk
  s.pending = [] ∧ modeOf b = 1 ∧ (∀ a, reg b a = if a = aB 0x005 then 1 else coldReg a) ∧ Memory.wf b.mem = true ∧
    (∀ a, rawWord b a = 0) ∧ (∀ f, f < 8 → fieldOf b f = Field.cold) ∧ (∀ e, e < 64 → engOf b e = Engine.cold) ∧
    (∀ l, l < 96 → linkOf b l = Link.cold) ∧ b.stw = Stw.cold ∧ b.host = HostP.cold ∧
    b.md.off = false ∧ b.md.warm = false ∧ b.md.clearWait = true ∧ b.md.fuseWait = true ∧
    b.tb.slot = 0 ∧ b.tb.sweep = 0 ∧ b.tb.runtime = 0 ∧
    b.auth.level = 0 ∧ b.auth.chal = none ∧ b.auth.key = none ∧ Auth.Legal b.auth

/-- R526 to R530: from every state with a legal authentication state, every step leaves a legal one, and the state changes only by a
pulse of DPOR_N, a CHAL capture, a RESP update or the end of a lockout. LEVEL holds until DPOR_N or a RESP update, which with Q = 0
or a wrong response leaves it 0, no reset of the block changing it; and it rises only by a RESP update, with RESP selected, without
LOCKOUT or BARRED, to the level asked for, whose response is the HMAC of the outstanding challenge under the key. -/
def Obligations.AuthenticationStaysLegalAndEarned : Prop :=
  ∀ s t : State, Auth.Legal s.blk.auth → step s = .next t →
    let x := s.blk.auth
    let y := t.blk.auth
    let right (q : BitVec 8) (r : BitVec 112) : Prop := (q = 1 ∨ q = 2) ∧ ∃ k ch, x.key = some k ∧ x.chal = some ch ∧
      r = BitVec.ofNat 112 (beNat ((hmac256 (beBytes 32 k.toNat) (beBytes 14 ch.toNat ++ [q])).take 14))
    Auth.Legal y ∧
    ((∀ c l, s.pending = c :: l → actsOnAuth c = false) → y = x) ∧
    ((∀ l, s.pending ≠ .dporN :: l) → (∀ q r l, s.pending = .respUpdate q r :: l → s.blk.tap.ir ≠ 0x09) → y.level = x.level) ∧
    (∀ l, s.pending = .dporN :: l → y.level = 0) ∧
    (∀ q r l, s.pending = .respUpdate q r :: l → s.blk.tap.ir = 0x09 →
      (right q r → y.level = q.toNat) ∧ (¬ right q r → y.level = 0) ∧ y.chal = none) ∧
    (x.level < y.level → x.lockout = false ∧ x.barred = false ∧ s.blk.tap.ir = 0x09 ∧
      ∃ q r l, s.pending = .respUpdate q r :: l ∧ right q r ∧ y.level = q.toNat)
end

