-- ==== Sys2Proof/Laws/Lists.lean ====
section
/-! SUPPORT. The laws of the sparse lists (a read after a write, and the canonical form kept), of the fixed lists, and of the
units they hold. -/

namespace Sys2Proof.Machine

/-! Sparse lists. -/

section sparse
variable {α : Type}

@[simp] theorem kget_nil (d : α) (k : Nat) : kget d [] k = d := rfl

theorem kget_kput (d : α) (m : KMap α) (k j : Nat) (v : α) :
    kget d (kput m k v) j = if j = k then v else kget d m j := by
  induction m with
  | nil => by_cases h : j = k <;> simp [kput, kget, h]
  | cons e m ih =>
    obtain ⟨a, x⟩ := e
    unfold kput
    split
    · by_cases h : j = k <;> simp [kget, h]
    · split
      · rename_i h1 h2; subst h2; by_cases h : j = k <;> simp [kget, h]
      · rename_i h1 h2
        simp only [kget, ih]
        by_cases h : j = k
        · subst h; simp [h2]
        · simp [h]

theorem kget_filter_ne (d : α) (m : KMap α) (k j : Nat) :
    kget d (kdel m k) j = if j = k then d else kget d m j := by
  induction m with
  | nil => by_cases h : j = k <;> simp [kdel, kget, h]
  | cons e m ih =>
    obtain ⟨a, x⟩ := e
    simp only [kdel, List.filter_cons] at ih ⊢
    by_cases ha : a = k
    · subst ha
      simp only [bne_self_eq_false, Bool.false_eq_true, if_false, ih, kget]
      by_cases h : j = a <;> simp [h]
    · simp only [bne_iff_ne, ne_eq, ha, not_false_eq_true, if_true, kget, ih]
      by_cases h : j = a
      · subst h; simp [ha]
      · simp [h]

/-- A read after a write (R17): the value written at its key, what was there at every other. -/
theorem kget_kset [DecidableEq α] (d : α) (m : KMap α) (k j : Nat) (v : α) :
    kget d (kset d m k v) j = if j = k then v else kget d m j := by
  unfold kset
  split
  · rename_i h; subst h; rw [kget_filter_ne]
  · rw [kget_kput]

theorem kget_kset_of_ne [DecidableEq α] (d d' : α) (m : KMap α) {k j : Nat} (v : α) (h : j ≠ k) :
    kget d (kset d' m k v) j = kget d m j := by
  unfold kset
  split
  · rw [kget_filter_ne, if_neg h]
  · rw [kget_kput, if_neg h]

@[simp] theorem kget_kset_self [DecidableEq α] (d : α) (m : KMap α) (k : Nat) (v : α) : kget d (kset d m k v) k = v := by
  rw [kget_kset, if_pos rfl]

theorem kget_filter (d : α) (m : KMap α) (p : Nat → Bool) (j : Nat) :
    kget d (m.filter (fun e => p e.1)) j = if p j then kget d m j else d := by
  induction m with
  | nil => simp [kget]
  | cons e m ih =>
    obtain ⟨a, x⟩ := e
    simp only [List.filter_cons]
    by_cases h : j = a
    · subst h
      by_cases hp : p j <;> simp [hp, kget, ih]
    · by_cases hp : p a <;> simp [hp, kget, ih, h]

theorem kget_kclear (d : α) (m : KMap α) (lo hi j : Nat) :
    kget d (kclear m lo hi) j = if lo ≤ j ∧ j < hi then d else kget d m j := by
  unfold kclear
  rw [kget_filter d m (fun a => !(decide (lo ≤ a ∧ a < hi)))]
  by_cases h : lo ≤ j ∧ j < hi <;> simp [h]

/-! The canonical form. -/

theorem rising_cons {a : Nat} {x : α} {m : KMap α} :
    rising ((a, x) :: m) = true ↔ (∀ e ∈ m, a < e.1) ∧ rising m = true := by
  induction m generalizing a x with
  | nil => simp [rising]
  | cons e m ih =>
    obtain ⟨c, y⟩ := e
    simp only [rising, Bool.and_eq_true, decide_eq_true_eq]
    constructor
    · rintro ⟨h, hr⟩
      refine ⟨?_, hr⟩
      intro e he
      rcases List.mem_cons.mp he with rfl | he
      · exact h
      · exact Nat.lt_trans h ((ih.mp hr).1 e he)
    · rintro ⟨h, hr⟩
      exact ⟨h (c, y) (List.mem_cons_self ..), hr⟩

theorem rising_filter {m : KMap α} (p : Nat × α → Bool) (h : rising m = true) : rising (m.filter p) = true := by
  induction m with
  | nil => rfl
  | cons e m ih =>
    obtain ⟨a, x⟩ := e
    rw [rising_cons] at h
    rw [List.filter_cons]
    split
    · exact rising_cons.mpr ⟨fun e he => h.1 e (List.mem_filter.mp he).1, ih h.2⟩
    · exact ih h.2

theorem mem_kput {m : KMap α} {k : Nat} {v : α} {e : Nat × α} (h : e ∈ kput m k v) : e = (k, v) ∨ e ∈ m := by
  induction m with
  | nil => simpa [kput] using h
  | cons c m ih =>
    obtain ⟨a, x⟩ := c
    unfold kput at h
    split at h
    · simpa using h
    · split at h
      · rcases List.mem_cons.mp h with rfl | h
        · exact .inl rfl
        · exact .inr (List.mem_cons_of_mem _ h)
      · rcases List.mem_cons.mp h with rfl | h
        · exact .inr (List.mem_cons_self ..)
        · exact (ih h).imp id (List.mem_cons_of_mem _)

theorem rising_kput {m : KMap α} (k : Nat) (v : α) (h : rising m = true) : rising (kput m k v) = true := by
  induction m with
  | nil => rfl
  | cons c m ih =>
    obtain ⟨a, x⟩ := c
    have hc := rising_cons.mp h
    unfold kput
    split
    · rename_i hk
      refine rising_cons.mpr ⟨?_, h⟩
      intro e he
      rcases List.mem_cons.mp he with rfl | he
      · exact hk
      · exact Nat.lt_trans hk (hc.1 e he)
    · split
      · rename_i h1 h2; subst h2; exact rising_cons.mpr hc
      · rename_i h1 h2
        refine rising_cons.mpr ⟨?_, ih hc.2⟩
        intro e he
        rcases mem_kput he with rfl | he
        · exact Nat.lt_of_le_of_ne (Nat.le_of_not_lt h1) (Ne.symm h2)
        · exact hc.1 e he

theorem canonical_iff [DecidableEq α] {d : Nat → α} {m : KMap α} :
    canonical d m = true ↔ rising m = true ∧ ∀ e ∈ m, e.2 ≠ d e.1 := by
  simp [canonical, List.all_eq_true]

/-- Removing entries keeps the canonical form. -/
theorem canonical_filter [DecidableEq α] {d : Nat → α} {m : KMap α} (p : Nat × α → Bool) (h : canonical d m = true) :
    canonical d (m.filter p) = true := by
  rw [canonical_iff] at h ⊢
  exact ⟨rising_filter p h.1, fun e he => h.2 e (List.mem_filter.mp he).1⟩

/-- A write keeps the canonical form. -/
theorem canonical_kset [DecidableEq α] {d : Nat → α} {m : KMap α} (k : Nat) (v : α) (h : canonical d m = true) :
    canonical d (kset (d k) m k v) = true := by
  unfold kset
  split
  · exact canonical_filter _ h
  · rename_i hv
    rw [canonical_iff] at h ⊢
    refine ⟨rising_kput k v h.1, ?_⟩
    intro e he
    rcases mem_kput he with rfl | he
    · exact hv
    · exact h.2 e he

end sparse

/-! Lists by index. -/

section index
variable {α : Type}

theorem nth_upd (d : α) (f : α → α) (l : List α) (i j : Nat) :
    nth d (upd f l i) j = if j = i ∧ i < l.length then f (nth d l j) else nth d l j := by
  induction l generalizing i j with
  | nil => simp [upd]
  | cons x xs ih =>
    cases i with
    | zero => cases j <;> simp [upd, nth]
    | succ i =>
      cases j with
      | zero => simp [upd, nth]
      | succ j => simp [upd, nth, ih]

theorem nth_map {β : Type} (d : α) (e : β) (f : α → β) (l : List α) (i : Nat) :
    nth e (l.map f) i = if i < l.length then f (nth d l i) else e := by
  induction l generalizing i with
  | nil => simp [nth]
  | cons x xs ih => cases i <;> simp [nth, ih]

theorem getAt_setAt {n : Nat} (d : α) (f : α → α) (l : Fixed α n) (i j : Nat) :
    getAt d (setAt f l i) j = if j = i ∧ i < n then f (getAt d l j) else getAt d l j := by
  unfold getAt setAt
  rw [nth_upd, l.2]

theorem getAt_setAt_self {n : Nat} (d : α) (f : α → α) (l : Fixed α n) {i : Nat} (h : i < n) :
    getAt d (setAt f l i) i = f (getAt d l i) := by
  rw [getAt_setAt, if_pos ⟨rfl, h⟩]

theorem getAt_setAt_ne {n : Nat} (d : α) (f : α → α) (l : Fixed α n) {i j : Nat} (h : j ≠ i) :
    getAt d (setAt f l i) j = getAt d l j := by
  rw [getAt_setAt, if_neg (fun c => h c.1)]

theorem getAt_mapAll {β : Type} {n : Nat} (d : α) (e : β) (f : α → β) (l : Fixed α n) (i : Nat) :
    getAt e (mapAll f l) i = if i < n then f (getAt d l i) else e := by
  unfold getAt mapAll
  rw [nth_map d, l.2]

theorem nth_out {d : α} {l : List α} {i : Nat} (h : l.length ≤ i) : nth d l i = d := by
  induction l generalizing i with
  | nil => rfl
  | cons x xs ih =>
    cases i with
    | zero => simp at h
    | succ i => exact ih (by simpa using h)

theorem nth_replicate (d x : α) (n i : Nat) : nth d (List.replicate n x) i = if i < n then x else d := by
  induction n generalizing i with
  | zero => simp [nth]
  | succ n ih => cases i <;> simp [List.replicate_succ, nth, ih]

theorem getAt_same {n : Nat} (d x : α) (i : Nat) : getAt d (Fixed.same x : Fixed α n) i = if i < n then x else d :=
  nth_replicate d x n i

end index

/-! Units. -/

theorem fieldOf_onField (f g : Nat) (h : Field → Field) (b : Blk) :
    fieldOf (onField f h b) g = if g = f ∧ f < 8 then h (fieldOf b g) else fieldOf b g :=
  getAt_setAt ..

theorem engOf_onEng (e g : Nat) (h : Engine → Engine) (b : Blk) :
    engOf (onEng e h b) g = if g = e ∧ e < 64 then h (engOf b g) else engOf b g :=
  getAt_setAt ..

theorem linkOf_onLink (l g : Nat) (h : Link → Link) (b : Blk) :
    linkOf (onLink l h b) g = if g = l ∧ l < 96 then h (linkOf b g) else linkOf b g :=
  getAt_setAt ..

theorem ctxOf_onEng (e g c : Nat) (h : Engine → Engine) (b : Blk) :
    ctxOf (onEng e h b) g c = if g = e ∧ e < 64 then getAt Ctx.cold (h (engOf b g)).ctxs c else ctxOf b g c := by
  unfold ctxOf; rw [engOf_onEng]; split <;> rfl

theorem ctxOf_onCtx (e c g k : Nat) (h : Ctx → Ctx) (b : Blk) :
    ctxOf (onCtx e c h b) g k = if (g = e ∧ e < 64) ∧ k = c ∧ c < 5 then h (ctxOf b g k) else ctxOf b g k := by
  unfold onCtx
  rw [ctxOf_onEng]
  by_cases he : g = e ∧ e < 64
  · simp only [he, true_and, and_self, if_true, getAt_setAt]
    obtain ⟨rfl, he⟩ := he
    simp [ctxOf]
  · simp [he]

end Sys2Proof.Machine
end

