-- ==== Sys2Proof/Laws/State.lean ====
section
/-! SUPPORT. What each update of the block leaves in each of its parts: one lemma for every update and part, so that no later
proof unfolds a record update. -/

namespace Sys2Proof.Machine

variable (b : Blk)

@[simp] theorem onField_cfg (f : Nat) (g : Field → Field) : (onField f g b).cfg = b.cfg := rfl
@[simp] theorem onField_regs (f : Nat) (g : Field → Field) : (onField f g b).regs = b.regs := rfl
@[simp] theorem onField_mem (f : Nat) (g : Field → Field) : (onField f g b).mem = b.mem := rfl
@[simp] theorem onField_latch (f : Nat) (g : Field → Field) : (onField f g b).latch = b.latch := rfl
@[simp] theorem onField_tb (f : Nat) (g : Field → Field) : (onField f g b).tb = b.tb := rfl
@[simp] theorem onField_fields (f : Nat) (g : Field → Field) : (onField f g b).fields = setAt g b.fields f := rfl
@[simp] theorem onField_engines (f : Nat) (g : Field → Field) : (onField f g b).engines = b.engines := rfl
@[simp] theorem onField_links (f : Nat) (g : Field → Field) : (onField f g b).links = b.links := rfl
@[simp] theorem onField_stw (f : Nat) (g : Field → Field) : (onField f g b).stw = b.stw := rfl
@[simp] theorem onField_host (f : Nat) (g : Field → Field) : (onField f g b).host = b.host := rfl
@[simp] theorem onField_tap (f : Nat) (g : Field → Field) : (onField f g b).tap = b.tap := rfl
@[simp] theorem onField_auth (f : Nat) (g : Field → Field) : (onField f g b).auth = b.auth := rfl
@[simp] theorem onField_trace (f : Nat) (g : Field → Field) : (onField f g b).trace = b.trace := rfl
@[simp] theorem onField_mc (f : Nat) (g : Field → Field) : (onField f g b).mc = b.mc := rfl
@[simp] theorem onField_gov (f : Nat) (g : Field → Field) : (onField f g b).gov = b.gov := rfl
@[simp] theorem onField_md (f : Nat) (g : Field → Field) : (onField f g b).md = b.md := rfl
@[simp] theorem onField_fabSwap (f : Nat) (g : Field → Field) : (onField f g b).fabSwap = b.fabSwap := rfl
@[simp] theorem onField_statCnt (f : Nat) (g : Field → Field) : (onField f g b).statCnt = b.statCnt := rfl
@[simp] theorem onField_pswReq (f : Nat) (g : Field → Field) : (onField f g b).pswReq = b.pswReq := rfl
@[simp] theorem onField_replay (f : Nat) (g : Field → Field) : (onField f g b).replay = b.replay := rfl
@[simp] theorem onField_free (f : Nat) (g : Field → Field) : (onField f g b).free = b.free := rfl
@[simp] theorem onField_stuck (f : Nat) (g : Field → Field) : (onField f g b).stuck = b.stuck := rfl

@[simp] theorem onEng_cfg (e : Nat) (g : Engine → Engine) : (onEng e g b).cfg = b.cfg := rfl
@[simp] theorem onEng_regs (e : Nat) (g : Engine → Engine) : (onEng e g b).regs = b.regs := rfl
@[simp] theorem onEng_mem (e : Nat) (g : Engine → Engine) : (onEng e g b).mem = b.mem := rfl
@[simp] theorem onEng_latch (e : Nat) (g : Engine → Engine) : (onEng e g b).latch = b.latch := rfl
@[simp] theorem onEng_tb (e : Nat) (g : Engine → Engine) : (onEng e g b).tb = b.tb := rfl
@[simp] theorem onEng_fields (e : Nat) (g : Engine → Engine) : (onEng e g b).fields = b.fields := rfl
@[simp] theorem onEng_engines (e : Nat) (g : Engine → Engine) : (onEng e g b).engines = setAt g b.engines e := rfl
@[simp] theorem onEng_links (e : Nat) (g : Engine → Engine) : (onEng e g b).links = b.links := rfl
@[simp] theorem onEng_stw (e : Nat) (g : Engine → Engine) : (onEng e g b).stw = b.stw := rfl
@[simp] theorem onEng_host (e : Nat) (g : Engine → Engine) : (onEng e g b).host = b.host := rfl
@[simp] theorem onEng_tap (e : Nat) (g : Engine → Engine) : (onEng e g b).tap = b.tap := rfl
@[simp] theorem onEng_auth (e : Nat) (g : Engine → Engine) : (onEng e g b).auth = b.auth := rfl
@[simp] theorem onEng_trace (e : Nat) (g : Engine → Engine) : (onEng e g b).trace = b.trace := rfl
@[simp] theorem onEng_mc (e : Nat) (g : Engine → Engine) : (onEng e g b).mc = b.mc := rfl
@[simp] theorem onEng_gov (e : Nat) (g : Engine → Engine) : (onEng e g b).gov = b.gov := rfl
@[simp] theorem onEng_md (e : Nat) (g : Engine → Engine) : (onEng e g b).md = b.md := rfl
@[simp] theorem onEng_fabSwap (e : Nat) (g : Engine → Engine) : (onEng e g b).fabSwap = b.fabSwap := rfl
@[simp] theorem onEng_statCnt (e : Nat) (g : Engine → Engine) : (onEng e g b).statCnt = b.statCnt := rfl
@[simp] theorem onEng_pswReq (e : Nat) (g : Engine → Engine) : (onEng e g b).pswReq = b.pswReq := rfl
@[simp] theorem onEng_replay (e : Nat) (g : Engine → Engine) : (onEng e g b).replay = b.replay := rfl
@[simp] theorem onEng_free (e : Nat) (g : Engine → Engine) : (onEng e g b).free = b.free := rfl
@[simp] theorem onEng_stuck (e : Nat) (g : Engine → Engine) : (onEng e g b).stuck = b.stuck := rfl

@[simp] theorem onLink_cfg (l : Nat) (g : Link → Link) : (onLink l g b).cfg = b.cfg := rfl
@[simp] theorem onLink_regs (l : Nat) (g : Link → Link) : (onLink l g b).regs = b.regs := rfl
@[simp] theorem onLink_mem (l : Nat) (g : Link → Link) : (onLink l g b).mem = b.mem := rfl
@[simp] theorem onLink_latch (l : Nat) (g : Link → Link) : (onLink l g b).latch = b.latch := rfl
@[simp] theorem onLink_tb (l : Nat) (g : Link → Link) : (onLink l g b).tb = b.tb := rfl
@[simp] theorem onLink_fields (l : Nat) (g : Link → Link) : (onLink l g b).fields = b.fields := rfl
@[simp] theorem onLink_engines (l : Nat) (g : Link → Link) : (onLink l g b).engines = b.engines := rfl
@[simp] theorem onLink_links (l : Nat) (g : Link → Link) : (onLink l g b).links = setAt g b.links l := rfl
@[simp] theorem onLink_stw (l : Nat) (g : Link → Link) : (onLink l g b).stw = b.stw := rfl
@[simp] theorem onLink_host (l : Nat) (g : Link → Link) : (onLink l g b).host = b.host := rfl
@[simp] theorem onLink_tap (l : Nat) (g : Link → Link) : (onLink l g b).tap = b.tap := rfl
@[simp] theorem onLink_auth (l : Nat) (g : Link → Link) : (onLink l g b).auth = b.auth := rfl
@[simp] theorem onLink_trace (l : Nat) (g : Link → Link) : (onLink l g b).trace = b.trace := rfl
@[simp] theorem onLink_mc (l : Nat) (g : Link → Link) : (onLink l g b).mc = b.mc := rfl
@[simp] theorem onLink_gov (l : Nat) (g : Link → Link) : (onLink l g b).gov = b.gov := rfl
@[simp] theorem onLink_md (l : Nat) (g : Link → Link) : (onLink l g b).md = b.md := rfl
@[simp] theorem onLink_fabSwap (l : Nat) (g : Link → Link) : (onLink l g b).fabSwap = b.fabSwap := rfl
@[simp] theorem onLink_statCnt (l : Nat) (g : Link → Link) : (onLink l g b).statCnt = b.statCnt := rfl
@[simp] theorem onLink_pswReq (l : Nat) (g : Link → Link) : (onLink l g b).pswReq = b.pswReq := rfl
@[simp] theorem onLink_replay (l : Nat) (g : Link → Link) : (onLink l g b).replay = b.replay := rfl
@[simp] theorem onLink_free (l : Nat) (g : Link → Link) : (onLink l g b).free = b.free := rfl
@[simp] theorem onLink_stuck (l : Nat) (g : Link → Link) : (onLink l g b).stuck = b.stuck := rfl

@[simp] theorem onTb_cfg (g : Tb → Tb) : (onTb g b).cfg = b.cfg := rfl
@[simp] theorem onTb_regs (g : Tb → Tb) : (onTb g b).regs = b.regs := rfl
@[simp] theorem onTb_mem (g : Tb → Tb) : (onTb g b).mem = b.mem := rfl
@[simp] theorem onTb_latch (g : Tb → Tb) : (onTb g b).latch = b.latch := rfl
@[simp] theorem onTb_tb (g : Tb → Tb) : (onTb g b).tb = g b.tb := rfl
@[simp] theorem onTb_fields (g : Tb → Tb) : (onTb g b).fields = b.fields := rfl
@[simp] theorem onTb_engines (g : Tb → Tb) : (onTb g b).engines = b.engines := rfl
@[simp] theorem onTb_links (g : Tb → Tb) : (onTb g b).links = b.links := rfl
@[simp] theorem onTb_stw (g : Tb → Tb) : (onTb g b).stw = b.stw := rfl
@[simp] theorem onTb_host (g : Tb → Tb) : (onTb g b).host = b.host := rfl
@[simp] theorem onTb_tap (g : Tb → Tb) : (onTb g b).tap = b.tap := rfl
@[simp] theorem onTb_auth (g : Tb → Tb) : (onTb g b).auth = b.auth := rfl
@[simp] theorem onTb_trace (g : Tb → Tb) : (onTb g b).trace = b.trace := rfl
@[simp] theorem onTb_mc (g : Tb → Tb) : (onTb g b).mc = b.mc := rfl
@[simp] theorem onTb_gov (g : Tb → Tb) : (onTb g b).gov = b.gov := rfl
@[simp] theorem onTb_md (g : Tb → Tb) : (onTb g b).md = b.md := rfl
@[simp] theorem onTb_fabSwap (g : Tb → Tb) : (onTb g b).fabSwap = b.fabSwap := rfl
@[simp] theorem onTb_statCnt (g : Tb → Tb) : (onTb g b).statCnt = b.statCnt := rfl
@[simp] theorem onTb_pswReq (g : Tb → Tb) : (onTb g b).pswReq = b.pswReq := rfl
@[simp] theorem onTb_replay (g : Tb → Tb) : (onTb g b).replay = b.replay := rfl
@[simp] theorem onTb_free (g : Tb → Tb) : (onTb g b).free = b.free := rfl
@[simp] theorem onTb_stuck (g : Tb → Tb) : (onTb g b).stuck = b.stuck := rfl

@[simp] theorem onStw_cfg (g : Stw → Stw) : (onStw g b).cfg = b.cfg := rfl
@[simp] theorem onStw_regs (g : Stw → Stw) : (onStw g b).regs = b.regs := rfl
@[simp] theorem onStw_mem (g : Stw → Stw) : (onStw g b).mem = b.mem := rfl
@[simp] theorem onStw_latch (g : Stw → Stw) : (onStw g b).latch = b.latch := rfl
@[simp] theorem onStw_tb (g : Stw → Stw) : (onStw g b).tb = b.tb := rfl
@[simp] theorem onStw_fields (g : Stw → Stw) : (onStw g b).fields = b.fields := rfl
@[simp] theorem onStw_engines (g : Stw → Stw) : (onStw g b).engines = b.engines := rfl
@[simp] theorem onStw_links (g : Stw → Stw) : (onStw g b).links = b.links := rfl
@[simp] theorem onStw_stw (g : Stw → Stw) : (onStw g b).stw = g b.stw := rfl
@[simp] theorem onStw_host (g : Stw → Stw) : (onStw g b).host = b.host := rfl
@[simp] theorem onStw_tap (g : Stw → Stw) : (onStw g b).tap = b.tap := rfl
@[simp] theorem onStw_auth (g : Stw → Stw) : (onStw g b).auth = b.auth := rfl
@[simp] theorem onStw_trace (g : Stw → Stw) : (onStw g b).trace = b.trace := rfl
@[simp] theorem onStw_mc (g : Stw → Stw) : (onStw g b).mc = b.mc := rfl
@[simp] theorem onStw_gov (g : Stw → Stw) : (onStw g b).gov = b.gov := rfl
@[simp] theorem onStw_md (g : Stw → Stw) : (onStw g b).md = b.md := rfl
@[simp] theorem onStw_fabSwap (g : Stw → Stw) : (onStw g b).fabSwap = b.fabSwap := rfl
@[simp] theorem onStw_statCnt (g : Stw → Stw) : (onStw g b).statCnt = b.statCnt := rfl
@[simp] theorem onStw_pswReq (g : Stw → Stw) : (onStw g b).pswReq = b.pswReq := rfl
@[simp] theorem onStw_replay (g : Stw → Stw) : (onStw g b).replay = b.replay := rfl
@[simp] theorem onStw_free (g : Stw → Stw) : (onStw g b).free = b.free := rfl
@[simp] theorem onStw_stuck (g : Stw → Stw) : (onStw g b).stuck = b.stuck := rfl

@[simp] theorem onMd_cfg (g : Md → Md) : (onMd g b).cfg = b.cfg := rfl
@[simp] theorem onMd_regs (g : Md → Md) : (onMd g b).regs = b.regs := rfl
@[simp] theorem onMd_mem (g : Md → Md) : (onMd g b).mem = b.mem := rfl
@[simp] theorem onMd_latch (g : Md → Md) : (onMd g b).latch = b.latch := rfl
@[simp] theorem onMd_tb (g : Md → Md) : (onMd g b).tb = b.tb := rfl
@[simp] theorem onMd_fields (g : Md → Md) : (onMd g b).fields = b.fields := rfl
@[simp] theorem onMd_engines (g : Md → Md) : (onMd g b).engines = b.engines := rfl
@[simp] theorem onMd_links (g : Md → Md) : (onMd g b).links = b.links := rfl
@[simp] theorem onMd_stw (g : Md → Md) : (onMd g b).stw = b.stw := rfl
@[simp] theorem onMd_host (g : Md → Md) : (onMd g b).host = b.host := rfl
@[simp] theorem onMd_tap (g : Md → Md) : (onMd g b).tap = b.tap := rfl
@[simp] theorem onMd_auth (g : Md → Md) : (onMd g b).auth = b.auth := rfl
@[simp] theorem onMd_trace (g : Md → Md) : (onMd g b).trace = b.trace := rfl
@[simp] theorem onMd_mc (g : Md → Md) : (onMd g b).mc = b.mc := rfl
@[simp] theorem onMd_gov (g : Md → Md) : (onMd g b).gov = b.gov := rfl
@[simp] theorem onMd_md (g : Md → Md) : (onMd g b).md = g b.md := rfl
@[simp] theorem onMd_fabSwap (g : Md → Md) : (onMd g b).fabSwap = b.fabSwap := rfl
@[simp] theorem onMd_statCnt (g : Md → Md) : (onMd g b).statCnt = b.statCnt := rfl
@[simp] theorem onMd_pswReq (g : Md → Md) : (onMd g b).pswReq = b.pswReq := rfl
@[simp] theorem onMd_replay (g : Md → Md) : (onMd g b).replay = b.replay := rfl
@[simp] theorem onMd_free (g : Md → Md) : (onMd g b).free = b.free := rfl
@[simp] theorem onMd_stuck (g : Md → Md) : (onMd g b).stuck = b.stuck := rfl

@[simp] theorem onGov_cfg (g : Gov → Gov) : (onGov g b).cfg = b.cfg := rfl
@[simp] theorem onGov_regs (g : Gov → Gov) : (onGov g b).regs = b.regs := rfl
@[simp] theorem onGov_mem (g : Gov → Gov) : (onGov g b).mem = b.mem := rfl
@[simp] theorem onGov_latch (g : Gov → Gov) : (onGov g b).latch = b.latch := rfl
@[simp] theorem onGov_tb (g : Gov → Gov) : (onGov g b).tb = b.tb := rfl
@[simp] theorem onGov_fields (g : Gov → Gov) : (onGov g b).fields = b.fields := rfl
@[simp] theorem onGov_engines (g : Gov → Gov) : (onGov g b).engines = b.engines := rfl
@[simp] theorem onGov_links (g : Gov → Gov) : (onGov g b).links = b.links := rfl
@[simp] theorem onGov_stw (g : Gov → Gov) : (onGov g b).stw = b.stw := rfl
@[simp] theorem onGov_host (g : Gov → Gov) : (onGov g b).host = b.host := rfl
@[simp] theorem onGov_tap (g : Gov → Gov) : (onGov g b).tap = b.tap := rfl
@[simp] theorem onGov_auth (g : Gov → Gov) : (onGov g b).auth = b.auth := rfl
@[simp] theorem onGov_trace (g : Gov → Gov) : (onGov g b).trace = b.trace := rfl
@[simp] theorem onGov_mc (g : Gov → Gov) : (onGov g b).mc = b.mc := rfl
@[simp] theorem onGov_gov (g : Gov → Gov) : (onGov g b).gov = g b.gov := rfl
@[simp] theorem onGov_md (g : Gov → Gov) : (onGov g b).md = b.md := rfl
@[simp] theorem onGov_fabSwap (g : Gov → Gov) : (onGov g b).fabSwap = b.fabSwap := rfl
@[simp] theorem onGov_statCnt (g : Gov → Gov) : (onGov g b).statCnt = b.statCnt := rfl
@[simp] theorem onGov_pswReq (g : Gov → Gov) : (onGov g b).pswReq = b.pswReq := rfl
@[simp] theorem onGov_replay (g : Gov → Gov) : (onGov g b).replay = b.replay := rfl
@[simp] theorem onGov_free (g : Gov → Gov) : (onGov g b).free = b.free := rfl
@[simp] theorem onGov_stuck (g : Gov → Gov) : (onGov g b).stuck = b.stuck := rfl

@[simp] theorem onHost_cfg (g : HostP → HostP) : (onHost g b).cfg = b.cfg := rfl
@[simp] theorem onHost_regs (g : HostP → HostP) : (onHost g b).regs = b.regs := rfl
@[simp] theorem onHost_mem (g : HostP → HostP) : (onHost g b).mem = b.mem := rfl
@[simp] theorem onHost_latch (g : HostP → HostP) : (onHost g b).latch = b.latch := rfl
@[simp] theorem onHost_tb (g : HostP → HostP) : (onHost g b).tb = b.tb := rfl
@[simp] theorem onHost_fields (g : HostP → HostP) : (onHost g b).fields = b.fields := rfl
@[simp] theorem onHost_engines (g : HostP → HostP) : (onHost g b).engines = b.engines := rfl
@[simp] theorem onHost_links (g : HostP → HostP) : (onHost g b).links = b.links := rfl
@[simp] theorem onHost_stw (g : HostP → HostP) : (onHost g b).stw = b.stw := rfl
@[simp] theorem onHost_host (g : HostP → HostP) : (onHost g b).host = g b.host := rfl
@[simp] theorem onHost_tap (g : HostP → HostP) : (onHost g b).tap = b.tap := rfl
@[simp] theorem onHost_auth (g : HostP → HostP) : (onHost g b).auth = b.auth := rfl
@[simp] theorem onHost_trace (g : HostP → HostP) : (onHost g b).trace = b.trace := rfl
@[simp] theorem onHost_mc (g : HostP → HostP) : (onHost g b).mc = b.mc := rfl
@[simp] theorem onHost_gov (g : HostP → HostP) : (onHost g b).gov = b.gov := rfl
@[simp] theorem onHost_md (g : HostP → HostP) : (onHost g b).md = b.md := rfl
@[simp] theorem onHost_fabSwap (g : HostP → HostP) : (onHost g b).fabSwap = b.fabSwap := rfl
@[simp] theorem onHost_statCnt (g : HostP → HostP) : (onHost g b).statCnt = b.statCnt := rfl
@[simp] theorem onHost_pswReq (g : HostP → HostP) : (onHost g b).pswReq = b.pswReq := rfl
@[simp] theorem onHost_replay (g : HostP → HostP) : (onHost g b).replay = b.replay := rfl
@[simp] theorem onHost_free (g : HostP → HostP) : (onHost g b).free = b.free := rfl
@[simp] theorem onHost_stuck (g : HostP → HostP) : (onHost g b).stuck = b.stuck := rfl

@[simp] theorem onTrace_cfg (g : Trace → Trace) : (onTrace g b).cfg = b.cfg := rfl
@[simp] theorem onTrace_regs (g : Trace → Trace) : (onTrace g b).regs = b.regs := rfl
@[simp] theorem onTrace_mem (g : Trace → Trace) : (onTrace g b).mem = b.mem := rfl
@[simp] theorem onTrace_latch (g : Trace → Trace) : (onTrace g b).latch = b.latch := rfl
@[simp] theorem onTrace_tb (g : Trace → Trace) : (onTrace g b).tb = b.tb := rfl
@[simp] theorem onTrace_fields (g : Trace → Trace) : (onTrace g b).fields = b.fields := rfl
@[simp] theorem onTrace_engines (g : Trace → Trace) : (onTrace g b).engines = b.engines := rfl
@[simp] theorem onTrace_links (g : Trace → Trace) : (onTrace g b).links = b.links := rfl
@[simp] theorem onTrace_stw (g : Trace → Trace) : (onTrace g b).stw = b.stw := rfl
@[simp] theorem onTrace_host (g : Trace → Trace) : (onTrace g b).host = b.host := rfl
@[simp] theorem onTrace_tap (g : Trace → Trace) : (onTrace g b).tap = b.tap := rfl
@[simp] theorem onTrace_auth (g : Trace → Trace) : (onTrace g b).auth = b.auth := rfl
@[simp] theorem onTrace_trace (g : Trace → Trace) : (onTrace g b).trace = g b.trace := rfl
@[simp] theorem onTrace_mc (g : Trace → Trace) : (onTrace g b).mc = b.mc := rfl
@[simp] theorem onTrace_gov (g : Trace → Trace) : (onTrace g b).gov = b.gov := rfl
@[simp] theorem onTrace_md (g : Trace → Trace) : (onTrace g b).md = b.md := rfl
@[simp] theorem onTrace_fabSwap (g : Trace → Trace) : (onTrace g b).fabSwap = b.fabSwap := rfl
@[simp] theorem onTrace_statCnt (g : Trace → Trace) : (onTrace g b).statCnt = b.statCnt := rfl
@[simp] theorem onTrace_pswReq (g : Trace → Trace) : (onTrace g b).pswReq = b.pswReq := rfl
@[simp] theorem onTrace_replay (g : Trace → Trace) : (onTrace g b).replay = b.replay := rfl
@[simp] theorem onTrace_free (g : Trace → Trace) : (onTrace g b).free = b.free := rfl
@[simp] theorem onTrace_stuck (g : Trace → Trace) : (onTrace g b).stuck = b.stuck := rfl

@[simp] theorem onMc_cfg (g : Mc → Mc) : (onMc g b).cfg = b.cfg := rfl
@[simp] theorem onMc_regs (g : Mc → Mc) : (onMc g b).regs = b.regs := rfl
@[simp] theorem onMc_mem (g : Mc → Mc) : (onMc g b).mem = b.mem := rfl
@[simp] theorem onMc_latch (g : Mc → Mc) : (onMc g b).latch = b.latch := rfl
@[simp] theorem onMc_tb (g : Mc → Mc) : (onMc g b).tb = b.tb := rfl
@[simp] theorem onMc_fields (g : Mc → Mc) : (onMc g b).fields = b.fields := rfl
@[simp] theorem onMc_engines (g : Mc → Mc) : (onMc g b).engines = b.engines := rfl
@[simp] theorem onMc_links (g : Mc → Mc) : (onMc g b).links = b.links := rfl
@[simp] theorem onMc_stw (g : Mc → Mc) : (onMc g b).stw = b.stw := rfl
@[simp] theorem onMc_host (g : Mc → Mc) : (onMc g b).host = b.host := rfl
@[simp] theorem onMc_tap (g : Mc → Mc) : (onMc g b).tap = b.tap := rfl
@[simp] theorem onMc_auth (g : Mc → Mc) : (onMc g b).auth = b.auth := rfl
@[simp] theorem onMc_trace (g : Mc → Mc) : (onMc g b).trace = b.trace := rfl
@[simp] theorem onMc_mc (g : Mc → Mc) : (onMc g b).mc = g b.mc := rfl
@[simp] theorem onMc_gov (g : Mc → Mc) : (onMc g b).gov = b.gov := rfl
@[simp] theorem onMc_md (g : Mc → Mc) : (onMc g b).md = b.md := rfl
@[simp] theorem onMc_fabSwap (g : Mc → Mc) : (onMc g b).fabSwap = b.fabSwap := rfl
@[simp] theorem onMc_statCnt (g : Mc → Mc) : (onMc g b).statCnt = b.statCnt := rfl
@[simp] theorem onMc_pswReq (g : Mc → Mc) : (onMc g b).pswReq = b.pswReq := rfl
@[simp] theorem onMc_replay (g : Mc → Mc) : (onMc g b).replay = b.replay := rfl
@[simp] theorem onMc_free (g : Mc → Mc) : (onMc g b).free = b.free := rfl
@[simp] theorem onMc_stuck (g : Mc → Mc) : (onMc g b).stuck = b.stuck := rfl

@[simp] theorem onTap_cfg (g : Tap → Tap) : (onTap g b).cfg = b.cfg := rfl
@[simp] theorem onTap_regs (g : Tap → Tap) : (onTap g b).regs = b.regs := rfl
@[simp] theorem onTap_mem (g : Tap → Tap) : (onTap g b).mem = b.mem := rfl
@[simp] theorem onTap_latch (g : Tap → Tap) : (onTap g b).latch = b.latch := rfl
@[simp] theorem onTap_tb (g : Tap → Tap) : (onTap g b).tb = b.tb := rfl
@[simp] theorem onTap_fields (g : Tap → Tap) : (onTap g b).fields = b.fields := rfl
@[simp] theorem onTap_engines (g : Tap → Tap) : (onTap g b).engines = b.engines := rfl
@[simp] theorem onTap_links (g : Tap → Tap) : (onTap g b).links = b.links := rfl
@[simp] theorem onTap_stw (g : Tap → Tap) : (onTap g b).stw = b.stw := rfl
@[simp] theorem onTap_host (g : Tap → Tap) : (onTap g b).host = b.host := rfl
@[simp] theorem onTap_tap (g : Tap → Tap) : (onTap g b).tap = g b.tap := rfl
@[simp] theorem onTap_auth (g : Tap → Tap) : (onTap g b).auth = b.auth := rfl
@[simp] theorem onTap_trace (g : Tap → Tap) : (onTap g b).trace = b.trace := rfl
@[simp] theorem onTap_mc (g : Tap → Tap) : (onTap g b).mc = b.mc := rfl
@[simp] theorem onTap_gov (g : Tap → Tap) : (onTap g b).gov = b.gov := rfl
@[simp] theorem onTap_md (g : Tap → Tap) : (onTap g b).md = b.md := rfl
@[simp] theorem onTap_fabSwap (g : Tap → Tap) : (onTap g b).fabSwap = b.fabSwap := rfl
@[simp] theorem onTap_statCnt (g : Tap → Tap) : (onTap g b).statCnt = b.statCnt := rfl
@[simp] theorem onTap_pswReq (g : Tap → Tap) : (onTap g b).pswReq = b.pswReq := rfl
@[simp] theorem onTap_replay (g : Tap → Tap) : (onTap g b).replay = b.replay := rfl
@[simp] theorem onTap_free (g : Tap → Tap) : (onTap g b).free = b.free := rfl
@[simp] theorem onTap_stuck (g : Tap → Tap) : (onTap g b).stuck = b.stuck := rfl

@[simp] theorem setReg_cfg (a : Nat) (v : BitVec 14) : (setReg a v b).cfg = b.cfg := rfl
@[simp] theorem setReg_regs (a : Nat) (v : BitVec 14) : (setReg a v b).regs = kset (coldReg a) b.regs a v := rfl
@[simp] theorem setReg_mem (a : Nat) (v : BitVec 14) : (setReg a v b).mem = b.mem := rfl
@[simp] theorem setReg_latch (a : Nat) (v : BitVec 14) : (setReg a v b).latch = b.latch := rfl
@[simp] theorem setReg_tb (a : Nat) (v : BitVec 14) : (setReg a v b).tb = b.tb := rfl
@[simp] theorem setReg_fields (a : Nat) (v : BitVec 14) : (setReg a v b).fields = b.fields := rfl
@[simp] theorem setReg_engines (a : Nat) (v : BitVec 14) : (setReg a v b).engines = b.engines := rfl
@[simp] theorem setReg_links (a : Nat) (v : BitVec 14) : (setReg a v b).links = b.links := rfl
@[simp] theorem setReg_stw (a : Nat) (v : BitVec 14) : (setReg a v b).stw = b.stw := rfl
@[simp] theorem setReg_host (a : Nat) (v : BitVec 14) : (setReg a v b).host = b.host := rfl
@[simp] theorem setReg_tap (a : Nat) (v : BitVec 14) : (setReg a v b).tap = b.tap := rfl
@[simp] theorem setReg_auth (a : Nat) (v : BitVec 14) : (setReg a v b).auth = b.auth := rfl
@[simp] theorem setReg_trace (a : Nat) (v : BitVec 14) : (setReg a v b).trace = b.trace := rfl
@[simp] theorem setReg_mc (a : Nat) (v : BitVec 14) : (setReg a v b).mc = b.mc := rfl
@[simp] theorem setReg_gov (a : Nat) (v : BitVec 14) : (setReg a v b).gov = b.gov := rfl
@[simp] theorem setReg_md (a : Nat) (v : BitVec 14) : (setReg a v b).md = b.md := rfl
@[simp] theorem setReg_fabSwap (a : Nat) (v : BitVec 14) : (setReg a v b).fabSwap = b.fabSwap := rfl
@[simp] theorem setReg_statCnt (a : Nat) (v : BitVec 14) : (setReg a v b).statCnt = b.statCnt := rfl
@[simp] theorem setReg_pswReq (a : Nat) (v : BitVec 14) : (setReg a v b).pswReq = b.pswReq := rfl
@[simp] theorem setReg_replay (a : Nat) (v : BitVec 14) : (setReg a v b).replay = b.replay := rfl
@[simp] theorem setReg_free (a : Nat) (v : BitVec 14) : (setReg a v b).free = b.free := rfl
@[simp] theorem setReg_stuck (a : Nat) (v : BitVec 14) : (setReg a v b).stuck = b.stuck := rfl

@[simp] theorem setLatch_cfg (m : Master) (a : Nat) (v : BitVec 14) : (setLatch m a v b).cfg = b.cfg := rfl
@[simp] theorem setLatch_regs (m : Master) (a : Nat) (v : BitVec 14) : (setLatch m a v b).regs = b.regs := rfl
@[simp] theorem setLatch_mem (m : Master) (a : Nat) (v : BitVec 14) : (setLatch m a v b).mem = b.mem := rfl
@[simp] theorem setLatch_latch (m : Master) (a : Nat) (v : BitVec 14) : (setLatch m a v b).latch = kset 0 b.latch (128 * a + masterIdx m) v := rfl
@[simp] theorem setLatch_tb (m : Master) (a : Nat) (v : BitVec 14) : (setLatch m a v b).tb = b.tb := rfl
@[simp] theorem setLatch_fields (m : Master) (a : Nat) (v : BitVec 14) : (setLatch m a v b).fields = b.fields := rfl
@[simp] theorem setLatch_engines (m : Master) (a : Nat) (v : BitVec 14) : (setLatch m a v b).engines = b.engines := rfl
@[simp] theorem setLatch_links (m : Master) (a : Nat) (v : BitVec 14) : (setLatch m a v b).links = b.links := rfl
@[simp] theorem setLatch_stw (m : Master) (a : Nat) (v : BitVec 14) : (setLatch m a v b).stw = b.stw := rfl
@[simp] theorem setLatch_host (m : Master) (a : Nat) (v : BitVec 14) : (setLatch m a v b).host = b.host := rfl
@[simp] theorem setLatch_tap (m : Master) (a : Nat) (v : BitVec 14) : (setLatch m a v b).tap = b.tap := rfl
@[simp] theorem setLatch_auth (m : Master) (a : Nat) (v : BitVec 14) : (setLatch m a v b).auth = b.auth := rfl
@[simp] theorem setLatch_trace (m : Master) (a : Nat) (v : BitVec 14) : (setLatch m a v b).trace = b.trace := rfl
@[simp] theorem setLatch_mc (m : Master) (a : Nat) (v : BitVec 14) : (setLatch m a v b).mc = b.mc := rfl
@[simp] theorem setLatch_gov (m : Master) (a : Nat) (v : BitVec 14) : (setLatch m a v b).gov = b.gov := rfl
@[simp] theorem setLatch_md (m : Master) (a : Nat) (v : BitVec 14) : (setLatch m a v b).md = b.md := rfl
@[simp] theorem setLatch_fabSwap (m : Master) (a : Nat) (v : BitVec 14) : (setLatch m a v b).fabSwap = b.fabSwap := rfl
@[simp] theorem setLatch_statCnt (m : Master) (a : Nat) (v : BitVec 14) : (setLatch m a v b).statCnt = b.statCnt := rfl
@[simp] theorem setLatch_pswReq (m : Master) (a : Nat) (v : BitVec 14) : (setLatch m a v b).pswReq = b.pswReq := rfl
@[simp] theorem setLatch_replay (m : Master) (a : Nat) (v : BitVec 14) : (setLatch m a v b).replay = b.replay := rfl
@[simp] theorem setLatch_free (m : Master) (a : Nat) (v : BitVec 14) : (setLatch m a v b).free = b.free := rfl
@[simp] theorem setLatch_stuck (m : Master) (a : Nat) (v : BitVec 14) : (setLatch m a v b).stuck = b.stuck := rfl

@[simp] theorem putWord_cfg (m : Mem) (w : BitVec 20) : (putWord m w b).cfg = b.cfg := rfl
@[simp] theorem putWord_regs (m : Mem) (w : BitVec 20) : (putWord m w b).regs = b.regs := rfl
@[simp] theorem putWord_mem (m : Mem) (w : BitVec 20) : (putWord m w b).mem = kset 0 b.mem (memAddr m) (w &&& ~~~ (stuckMask b m)) := rfl
@[simp] theorem putWord_latch (m : Mem) (w : BitVec 20) : (putWord m w b).latch = b.latch := rfl
@[simp] theorem putWord_tb (m : Mem) (w : BitVec 20) : (putWord m w b).tb = b.tb := rfl
@[simp] theorem putWord_fields (m : Mem) (w : BitVec 20) : (putWord m w b).fields = b.fields := rfl
@[simp] theorem putWord_engines (m : Mem) (w : BitVec 20) : (putWord m w b).engines = b.engines := rfl
@[simp] theorem putWord_links (m : Mem) (w : BitVec 20) : (putWord m w b).links = b.links := rfl
@[simp] theorem putWord_stw (m : Mem) (w : BitVec 20) : (putWord m w b).stw = b.stw := rfl
@[simp] theorem putWord_host (m : Mem) (w : BitVec 20) : (putWord m w b).host = b.host := rfl
@[simp] theorem putWord_tap (m : Mem) (w : BitVec 20) : (putWord m w b).tap = b.tap := rfl
@[simp] theorem putWord_auth (m : Mem) (w : BitVec 20) : (putWord m w b).auth = b.auth := rfl
@[simp] theorem putWord_trace (m : Mem) (w : BitVec 20) : (putWord m w b).trace = b.trace := rfl
@[simp] theorem putWord_mc (m : Mem) (w : BitVec 20) : (putWord m w b).mc = b.mc := rfl
@[simp] theorem putWord_gov (m : Mem) (w : BitVec 20) : (putWord m w b).gov = b.gov := rfl
@[simp] theorem putWord_md (m : Mem) (w : BitVec 20) : (putWord m w b).md = b.md := rfl
@[simp] theorem putWord_fabSwap (m : Mem) (w : BitVec 20) : (putWord m w b).fabSwap = b.fabSwap := rfl
@[simp] theorem putWord_statCnt (m : Mem) (w : BitVec 20) : (putWord m w b).statCnt = b.statCnt := rfl
@[simp] theorem putWord_pswReq (m : Mem) (w : BitVec 20) : (putWord m w b).pswReq = b.pswReq := rfl
@[simp] theorem putWord_replay (m : Mem) (w : BitVec 20) : (putWord m w b).replay = b.replay := rfl
@[simp] theorem putWord_free (m : Mem) (w : BitVec 20) : (putWord m w b).free = b.free := rfl
@[simp] theorem putWord_stuck (m : Mem) (w : BitVec 20) : (putWord m w b).stuck = b.stuck := rfl

@[simp] theorem onCtx_cfg (e c : Nat) (g : Ctx → Ctx) : (onCtx e c g b).cfg = b.cfg := rfl
@[simp] theorem onCtx_regs (e c : Nat) (g : Ctx → Ctx) : (onCtx e c g b).regs = b.regs := rfl
@[simp] theorem onCtx_mem (e c : Nat) (g : Ctx → Ctx) : (onCtx e c g b).mem = b.mem := rfl
@[simp] theorem onCtx_latch (e c : Nat) (g : Ctx → Ctx) : (onCtx e c g b).latch = b.latch := rfl
@[simp] theorem onCtx_tb (e c : Nat) (g : Ctx → Ctx) : (onCtx e c g b).tb = b.tb := rfl
@[simp] theorem onCtx_fields (e c : Nat) (g : Ctx → Ctx) : (onCtx e c g b).fields = b.fields := rfl
@[simp] theorem onCtx_links (e c : Nat) (g : Ctx → Ctx) : (onCtx e c g b).links = b.links := rfl
@[simp] theorem onCtx_stw (e c : Nat) (g : Ctx → Ctx) : (onCtx e c g b).stw = b.stw := rfl
@[simp] theorem onCtx_host (e c : Nat) (g : Ctx → Ctx) : (onCtx e c g b).host = b.host := rfl
@[simp] theorem onCtx_tap (e c : Nat) (g : Ctx → Ctx) : (onCtx e c g b).tap = b.tap := rfl
@[simp] theorem onCtx_auth (e c : Nat) (g : Ctx → Ctx) : (onCtx e c g b).auth = b.auth := rfl
@[simp] theorem onCtx_trace (e c : Nat) (g : Ctx → Ctx) : (onCtx e c g b).trace = b.trace := rfl
@[simp] theorem onCtx_mc (e c : Nat) (g : Ctx → Ctx) : (onCtx e c g b).mc = b.mc := rfl
@[simp] theorem onCtx_gov (e c : Nat) (g : Ctx → Ctx) : (onCtx e c g b).gov = b.gov := rfl
@[simp] theorem onCtx_md (e c : Nat) (g : Ctx → Ctx) : (onCtx e c g b).md = b.md := rfl
@[simp] theorem onCtx_fabSwap (e c : Nat) (g : Ctx → Ctx) : (onCtx e c g b).fabSwap = b.fabSwap := rfl
@[simp] theorem onCtx_statCnt (e c : Nat) (g : Ctx → Ctx) : (onCtx e c g b).statCnt = b.statCnt := rfl
@[simp] theorem onCtx_pswReq (e c : Nat) (g : Ctx → Ctx) : (onCtx e c g b).pswReq = b.pswReq := rfl
@[simp] theorem onCtx_replay (e c : Nat) (g : Ctx → Ctx) : (onCtx e c g b).replay = b.replay := rfl
@[simp] theorem onCtx_free (e c : Nat) (g : Ctx → Ctx) : (onCtx e c g b).free = b.free := rfl
@[simp] theorem onCtx_stuck (e c : Nat) (g : Ctx → Ctx) : (onCtx e c g b).stuck = b.stuck := rfl

@[simp] theorem orReg_cfg (a : Nat) (m : BitVec 14) : (orReg a m b).cfg = b.cfg := rfl
@[simp] theorem orReg_mem (a : Nat) (m : BitVec 14) : (orReg a m b).mem = b.mem := rfl
@[simp] theorem orReg_latch (a : Nat) (m : BitVec 14) : (orReg a m b).latch = b.latch := rfl
@[simp] theorem orReg_tb (a : Nat) (m : BitVec 14) : (orReg a m b).tb = b.tb := rfl
@[simp] theorem orReg_fields (a : Nat) (m : BitVec 14) : (orReg a m b).fields = b.fields := rfl
@[simp] theorem orReg_engines (a : Nat) (m : BitVec 14) : (orReg a m b).engines = b.engines := rfl
@[simp] theorem orReg_links (a : Nat) (m : BitVec 14) : (orReg a m b).links = b.links := rfl
@[simp] theorem orReg_stw (a : Nat) (m : BitVec 14) : (orReg a m b).stw = b.stw := rfl
@[simp] theorem orReg_host (a : Nat) (m : BitVec 14) : (orReg a m b).host = b.host := rfl
@[simp] theorem orReg_tap (a : Nat) (m : BitVec 14) : (orReg a m b).tap = b.tap := rfl
@[simp] theorem orReg_auth (a : Nat) (m : BitVec 14) : (orReg a m b).auth = b.auth := rfl
@[simp] theorem orReg_trace (a : Nat) (m : BitVec 14) : (orReg a m b).trace = b.trace := rfl
@[simp] theorem orReg_mc (a : Nat) (m : BitVec 14) : (orReg a m b).mc = b.mc := rfl
@[simp] theorem orReg_gov (a : Nat) (m : BitVec 14) : (orReg a m b).gov = b.gov := rfl
@[simp] theorem orReg_md (a : Nat) (m : BitVec 14) : (orReg a m b).md = b.md := rfl
@[simp] theorem orReg_fabSwap (a : Nat) (m : BitVec 14) : (orReg a m b).fabSwap = b.fabSwap := rfl
@[simp] theorem orReg_statCnt (a : Nat) (m : BitVec 14) : (orReg a m b).statCnt = b.statCnt := rfl
@[simp] theorem orReg_pswReq (a : Nat) (m : BitVec 14) : (orReg a m b).pswReq = b.pswReq := rfl
@[simp] theorem orReg_replay (a : Nat) (m : BitVec 14) : (orReg a m b).replay = b.replay := rfl
@[simp] theorem orReg_free (a : Nat) (m : BitVec 14) : (orReg a m b).free = b.free := rfl
@[simp] theorem orReg_stuck (a : Nat) (m : BitVec 14) : (orReg a m b).stuck = b.stuck := rfl

@[simp] theorem clrReg_cfg (a : Nat) (m : BitVec 14) : (clrReg a m b).cfg = b.cfg := rfl
@[simp] theorem clrReg_mem (a : Nat) (m : BitVec 14) : (clrReg a m b).mem = b.mem := rfl
@[simp] theorem clrReg_latch (a : Nat) (m : BitVec 14) : (clrReg a m b).latch = b.latch := rfl
@[simp] theorem clrReg_tb (a : Nat) (m : BitVec 14) : (clrReg a m b).tb = b.tb := rfl
@[simp] theorem clrReg_fields (a : Nat) (m : BitVec 14) : (clrReg a m b).fields = b.fields := rfl
@[simp] theorem clrReg_engines (a : Nat) (m : BitVec 14) : (clrReg a m b).engines = b.engines := rfl
@[simp] theorem clrReg_links (a : Nat) (m : BitVec 14) : (clrReg a m b).links = b.links := rfl
@[simp] theorem clrReg_stw (a : Nat) (m : BitVec 14) : (clrReg a m b).stw = b.stw := rfl
@[simp] theorem clrReg_host (a : Nat) (m : BitVec 14) : (clrReg a m b).host = b.host := rfl
@[simp] theorem clrReg_tap (a : Nat) (m : BitVec 14) : (clrReg a m b).tap = b.tap := rfl
@[simp] theorem clrReg_auth (a : Nat) (m : BitVec 14) : (clrReg a m b).auth = b.auth := rfl
@[simp] theorem clrReg_trace (a : Nat) (m : BitVec 14) : (clrReg a m b).trace = b.trace := rfl
@[simp] theorem clrReg_mc (a : Nat) (m : BitVec 14) : (clrReg a m b).mc = b.mc := rfl
@[simp] theorem clrReg_gov (a : Nat) (m : BitVec 14) : (clrReg a m b).gov = b.gov := rfl
@[simp] theorem clrReg_md (a : Nat) (m : BitVec 14) : (clrReg a m b).md = b.md := rfl
@[simp] theorem clrReg_fabSwap (a : Nat) (m : BitVec 14) : (clrReg a m b).fabSwap = b.fabSwap := rfl
@[simp] theorem clrReg_statCnt (a : Nat) (m : BitVec 14) : (clrReg a m b).statCnt = b.statCnt := rfl
@[simp] theorem clrReg_pswReq (a : Nat) (m : BitVec 14) : (clrReg a m b).pswReq = b.pswReq := rfl
@[simp] theorem clrReg_replay (a : Nat) (m : BitVec 14) : (clrReg a m b).replay = b.replay := rfl
@[simp] theorem clrReg_free (a : Nat) (m : BitVec 14) : (clrReg a m b).free = b.free := rfl
@[simp] theorem clrReg_stuck (a : Nat) (m : BitVec 14) : (clrReg a m b).stuck = b.stuck := rfl

@[simp] theorem countN_cfg (a k : Nat) : (countN a k b).cfg = b.cfg := rfl
@[simp] theorem countN_mem (a k : Nat) : (countN a k b).mem = b.mem := rfl
@[simp] theorem countN_latch (a k : Nat) : (countN a k b).latch = b.latch := rfl
@[simp] theorem countN_tb (a k : Nat) : (countN a k b).tb = b.tb := rfl
@[simp] theorem countN_fields (a k : Nat) : (countN a k b).fields = b.fields := rfl
@[simp] theorem countN_engines (a k : Nat) : (countN a k b).engines = b.engines := rfl
@[simp] theorem countN_links (a k : Nat) : (countN a k b).links = b.links := rfl
@[simp] theorem countN_stw (a k : Nat) : (countN a k b).stw = b.stw := rfl
@[simp] theorem countN_host (a k : Nat) : (countN a k b).host = b.host := rfl
@[simp] theorem countN_tap (a k : Nat) : (countN a k b).tap = b.tap := rfl
@[simp] theorem countN_auth (a k : Nat) : (countN a k b).auth = b.auth := rfl
@[simp] theorem countN_trace (a k : Nat) : (countN a k b).trace = b.trace := rfl
@[simp] theorem countN_mc (a k : Nat) : (countN a k b).mc = b.mc := rfl
@[simp] theorem countN_gov (a k : Nat) : (countN a k b).gov = b.gov := rfl
@[simp] theorem countN_md (a k : Nat) : (countN a k b).md = b.md := rfl
@[simp] theorem countN_fabSwap (a k : Nat) : (countN a k b).fabSwap = b.fabSwap := rfl
@[simp] theorem countN_statCnt (a k : Nat) : (countN a k b).statCnt = b.statCnt := rfl
@[simp] theorem countN_pswReq (a k : Nat) : (countN a k b).pswReq = b.pswReq := rfl
@[simp] theorem countN_replay (a k : Nat) : (countN a k b).replay = b.replay := rfl
@[simp] theorem countN_free (a k : Nat) : (countN a k b).free = b.free := rfl
@[simp] theorem countN_stuck (a k : Nat) : (countN a k b).stuck = b.stuck := rfl

@[simp] theorem count_cfg (a : Nat) : (count a b).cfg = b.cfg := rfl
@[simp] theorem count_mem (a : Nat) : (count a b).mem = b.mem := rfl
@[simp] theorem count_latch (a : Nat) : (count a b).latch = b.latch := rfl
@[simp] theorem count_tb (a : Nat) : (count a b).tb = b.tb := rfl
@[simp] theorem count_fields (a : Nat) : (count a b).fields = b.fields := rfl
@[simp] theorem count_engines (a : Nat) : (count a b).engines = b.engines := rfl
@[simp] theorem count_links (a : Nat) : (count a b).links = b.links := rfl
@[simp] theorem count_stw (a : Nat) : (count a b).stw = b.stw := rfl
@[simp] theorem count_host (a : Nat) : (count a b).host = b.host := rfl
@[simp] theorem count_tap (a : Nat) : (count a b).tap = b.tap := rfl
@[simp] theorem count_auth (a : Nat) : (count a b).auth = b.auth := rfl
@[simp] theorem count_trace (a : Nat) : (count a b).trace = b.trace := rfl
@[simp] theorem count_mc (a : Nat) : (count a b).mc = b.mc := rfl
@[simp] theorem count_gov (a : Nat) : (count a b).gov = b.gov := rfl
@[simp] theorem count_md (a : Nat) : (count a b).md = b.md := rfl
@[simp] theorem count_fabSwap (a : Nat) : (count a b).fabSwap = b.fabSwap := rfl
@[simp] theorem count_statCnt (a : Nat) : (count a b).statCnt = b.statCnt := rfl
@[simp] theorem count_pswReq (a : Nat) : (count a b).pswReq = b.pswReq := rfl
@[simp] theorem count_replay (a : Nat) : (count a b).replay = b.replay := rfl
@[simp] theorem count_free (a : Nat) : (count a b).free = b.free := rfl
@[simp] theorem count_stuck (a : Nat) : (count a b).stuck = b.stuck := rfl

@[simp] theorem putSrc_cfg (f s : Nat) (x : Src) : (putSrc f s x b).cfg = b.cfg := rfl
@[simp] theorem putSrc_regs (f s : Nat) (x : Src) : (putSrc f s x b).regs = b.regs := rfl
@[simp] theorem putSrc_mem (f s : Nat) (x : Src) : (putSrc f s x b).mem = b.mem := rfl
@[simp] theorem putSrc_latch (f s : Nat) (x : Src) : (putSrc f s x b).latch = b.latch := rfl
@[simp] theorem putSrc_tb (f s : Nat) (x : Src) : (putSrc f s x b).tb = b.tb := rfl
@[simp] theorem putSrc_engines (f s : Nat) (x : Src) : (putSrc f s x b).engines = b.engines := rfl
@[simp] theorem putSrc_links (f s : Nat) (x : Src) : (putSrc f s x b).links = b.links := rfl
@[simp] theorem putSrc_stw (f s : Nat) (x : Src) : (putSrc f s x b).stw = b.stw := rfl
@[simp] theorem putSrc_host (f s : Nat) (x : Src) : (putSrc f s x b).host = b.host := rfl
@[simp] theorem putSrc_tap (f s : Nat) (x : Src) : (putSrc f s x b).tap = b.tap := rfl
@[simp] theorem putSrc_auth (f s : Nat) (x : Src) : (putSrc f s x b).auth = b.auth := rfl
@[simp] theorem putSrc_trace (f s : Nat) (x : Src) : (putSrc f s x b).trace = b.trace := rfl
@[simp] theorem putSrc_mc (f s : Nat) (x : Src) : (putSrc f s x b).mc = b.mc := rfl
@[simp] theorem putSrc_gov (f s : Nat) (x : Src) : (putSrc f s x b).gov = b.gov := rfl
@[simp] theorem putSrc_md (f s : Nat) (x : Src) : (putSrc f s x b).md = b.md := rfl
@[simp] theorem putSrc_fabSwap (f s : Nat) (x : Src) : (putSrc f s x b).fabSwap = b.fabSwap := rfl
@[simp] theorem putSrc_statCnt (f s : Nat) (x : Src) : (putSrc f s x b).statCnt = b.statCnt := rfl
@[simp] theorem putSrc_pswReq (f s : Nat) (x : Src) : (putSrc f s x b).pswReq = b.pswReq := rfl
@[simp] theorem putSrc_replay (f s : Nat) (x : Src) : (putSrc f s x b).replay = b.replay := rfl
@[simp] theorem putSrc_free (f s : Nat) (x : Src) : (putSrc f s x b).free = b.free := rfl
@[simp] theorem putSrc_stuck (f s : Nat) (x : Src) : (putSrc f s x b).stuck = b.stuck := rfl

@[simp] theorem plainWrite_cfg (a : Nat) (v : BitVec 14) : (plainWrite a v b).cfg = b.cfg := by
  unfold plainWrite; split <;> rfl
@[simp] theorem plainWrite_mem (a : Nat) (v : BitVec 14) : (plainWrite a v b).mem = b.mem := by
  unfold plainWrite; split <;> rfl
@[simp] theorem plainWrite_latch (a : Nat) (v : BitVec 14) : (plainWrite a v b).latch = b.latch := by
  unfold plainWrite; split <;> rfl
@[simp] theorem plainWrite_tb (a : Nat) (v : BitVec 14) : (plainWrite a v b).tb = b.tb := by
  unfold plainWrite; split <;> rfl
@[simp] theorem plainWrite_fields (a : Nat) (v : BitVec 14) : (plainWrite a v b).fields = b.fields := by
  unfold plainWrite; split <;> rfl
@[simp] theorem plainWrite_engines (a : Nat) (v : BitVec 14) : (plainWrite a v b).engines = b.engines := by
  unfold plainWrite; split <;> rfl
@[simp] theorem plainWrite_links (a : Nat) (v : BitVec 14) : (plainWrite a v b).links = b.links := by
  unfold plainWrite; split <;> rfl
@[simp] theorem plainWrite_stw (a : Nat) (v : BitVec 14) : (plainWrite a v b).stw = b.stw := by
  unfold plainWrite; split <;> rfl
@[simp] theorem plainWrite_host (a : Nat) (v : BitVec 14) : (plainWrite a v b).host = b.host := by
  unfold plainWrite; split <;> rfl
@[simp] theorem plainWrite_tap (a : Nat) (v : BitVec 14) : (plainWrite a v b).tap = b.tap := by
  unfold plainWrite; split <;> rfl
@[simp] theorem plainWrite_auth (a : Nat) (v : BitVec 14) : (plainWrite a v b).auth = b.auth := by
  unfold plainWrite; split <;> rfl
@[simp] theorem plainWrite_trace (a : Nat) (v : BitVec 14) : (plainWrite a v b).trace = b.trace := by
  unfold plainWrite; split <;> rfl
@[simp] theorem plainWrite_mc (a : Nat) (v : BitVec 14) : (plainWrite a v b).mc = b.mc := by
  unfold plainWrite; split <;> rfl
@[simp] theorem plainWrite_gov (a : Nat) (v : BitVec 14) : (plainWrite a v b).gov = b.gov := by
  unfold plainWrite; split <;> rfl
@[simp] theorem plainWrite_md (a : Nat) (v : BitVec 14) : (plainWrite a v b).md = b.md := by
  unfold plainWrite; split <;> rfl
@[simp] theorem plainWrite_fabSwap (a : Nat) (v : BitVec 14) : (plainWrite a v b).fabSwap = b.fabSwap := by
  unfold plainWrite; split <;> rfl
@[simp] theorem plainWrite_statCnt (a : Nat) (v : BitVec 14) : (plainWrite a v b).statCnt = b.statCnt := by
  unfold plainWrite; split <;> rfl
@[simp] theorem plainWrite_pswReq (a : Nat) (v : BitVec 14) : (plainWrite a v b).pswReq = b.pswReq := by
  unfold plainWrite; split <;> rfl
@[simp] theorem plainWrite_replay (a : Nat) (v : BitVec 14) : (plainWrite a v b).replay = b.replay := by
  unfold plainWrite; split <;> rfl
@[simp] theorem plainWrite_free (a : Nat) (v : BitVec 14) : (plainWrite a v b).free = b.free := by
  unfold plainWrite; split <;> rfl
@[simp] theorem plainWrite_stuck (a : Nat) (v : BitVec 14) : (plainWrite a v b).stuck = b.stuck := by
  unfold plainWrite; split <;> rfl

@[simp] theorem peak_cfg (a k : Nat) : (peak a k b).cfg = b.cfg := by
  unfold peak; split <;> rfl
@[simp] theorem peak_mem (a k : Nat) : (peak a k b).mem = b.mem := by
  unfold peak; split <;> rfl
@[simp] theorem peak_latch (a k : Nat) : (peak a k b).latch = b.latch := by
  unfold peak; split <;> rfl
@[simp] theorem peak_tb (a k : Nat) : (peak a k b).tb = b.tb := by
  unfold peak; split <;> rfl
@[simp] theorem peak_fields (a k : Nat) : (peak a k b).fields = b.fields := by
  unfold peak; split <;> rfl
@[simp] theorem peak_engines (a k : Nat) : (peak a k b).engines = b.engines := by
  unfold peak; split <;> rfl
@[simp] theorem peak_links (a k : Nat) : (peak a k b).links = b.links := by
  unfold peak; split <;> rfl
@[simp] theorem peak_stw (a k : Nat) : (peak a k b).stw = b.stw := by
  unfold peak; split <;> rfl
@[simp] theorem peak_host (a k : Nat) : (peak a k b).host = b.host := by
  unfold peak; split <;> rfl
@[simp] theorem peak_tap (a k : Nat) : (peak a k b).tap = b.tap := by
  unfold peak; split <;> rfl
@[simp] theorem peak_auth (a k : Nat) : (peak a k b).auth = b.auth := by
  unfold peak; split <;> rfl
@[simp] theorem peak_trace (a k : Nat) : (peak a k b).trace = b.trace := by
  unfold peak; split <;> rfl
@[simp] theorem peak_mc (a k : Nat) : (peak a k b).mc = b.mc := by
  unfold peak; split <;> rfl
@[simp] theorem peak_gov (a k : Nat) : (peak a k b).gov = b.gov := by
  unfold peak; split <;> rfl
@[simp] theorem peak_md (a k : Nat) : (peak a k b).md = b.md := by
  unfold peak; split <;> rfl
@[simp] theorem peak_fabSwap (a k : Nat) : (peak a k b).fabSwap = b.fabSwap := by
  unfold peak; split <;> rfl
@[simp] theorem peak_statCnt (a k : Nat) : (peak a k b).statCnt = b.statCnt := by
  unfold peak; split <;> rfl
@[simp] theorem peak_pswReq (a k : Nat) : (peak a k b).pswReq = b.pswReq := by
  unfold peak; split <;> rfl
@[simp] theorem peak_replay (a k : Nat) : (peak a k b).replay = b.replay := by
  unfold peak; split <;> rfl
@[simp] theorem peak_free (a k : Nat) : (peak a k b).free = b.free := by
  unfold peak; split <;> rfl
@[simp] theorem peak_stuck (a k : Nat) : (peak a k b).stuck = b.stuck := by
  unfold peak; split <;> rfl

/-! The state as a whole. -/

@[simp] theorem State.put_blk (s : State) : (s.put b).blk = b := rfl
@[simp] theorem State.put_pending (s : State) : (s.put b).pending = s.pending := rfl

/-- The three ways in which an effect becomes a meaning always answer a next state. -/
theorem run_eq (f : Blk → Blk) (s : State) :
    run f s = .next (s.put (if s.blk.md.off then s.blk else keepAuth f s.blk)) := rfl
theorem runPin_eq (f : Blk → Blk) (s : State) : runPin f s = .next (s.put (keepAuth f s.blk)) := rfl
theorem runAuth_eq (f : Blk → Blk) (s : State) : runAuth f s = .next (s.put (f s.blk)) := rfl

theorem run_on {s : State} (f : Blk → Blk) (h : s.blk.md.off = false) : run f s = .next (s.put (keepAuth f s.blk)) := by
  rw [run_eq, h]; rfl

@[simp] theorem keepAuth_auth (f : Blk → Blk) : (keepAuth f b).auth = b.auth := rfl
@[simp] theorem keepAuth_cfg (f : Blk → Blk) : (keepAuth f b).cfg = (f b).cfg := rfl
@[simp] theorem keepAuth_regs (f : Blk → Blk) : (keepAuth f b).regs = (f b).regs := rfl
@[simp] theorem keepAuth_mem (f : Blk → Blk) : (keepAuth f b).mem = (f b).mem := rfl
@[simp] theorem keepAuth_latch (f : Blk → Blk) : (keepAuth f b).latch = (f b).latch := rfl
@[simp] theorem keepAuth_tb (f : Blk → Blk) : (keepAuth f b).tb = (f b).tb := rfl
@[simp] theorem keepAuth_fields (f : Blk → Blk) : (keepAuth f b).fields = (f b).fields := rfl
@[simp] theorem keepAuth_engines (f : Blk → Blk) : (keepAuth f b).engines = (f b).engines := rfl
@[simp] theorem keepAuth_links (f : Blk → Blk) : (keepAuth f b).links = (f b).links := rfl
@[simp] theorem keepAuth_stw (f : Blk → Blk) : (keepAuth f b).stw = (f b).stw := rfl
@[simp] theorem keepAuth_host (f : Blk → Blk) : (keepAuth f b).host = (f b).host := rfl
@[simp] theorem keepAuth_tap (f : Blk → Blk) : (keepAuth f b).tap = (f b).tap := rfl
@[simp] theorem keepAuth_trace (f : Blk → Blk) : (keepAuth f b).trace = (f b).trace := rfl
@[simp] theorem keepAuth_mc (f : Blk → Blk) : (keepAuth f b).mc = (f b).mc := rfl
@[simp] theorem keepAuth_gov (f : Blk → Blk) : (keepAuth f b).gov = (f b).gov := rfl
@[simp] theorem keepAuth_md (f : Blk → Blk) : (keepAuth f b).md = (f b).md := rfl
@[simp] theorem keepAuth_fabSwap (f : Blk → Blk) : (keepAuth f b).fabSwap = (f b).fabSwap := rfl
@[simp] theorem keepAuth_statCnt (f : Blk → Blk) : (keepAuth f b).statCnt = (f b).statCnt := rfl
@[simp] theorem keepAuth_pswReq (f : Blk → Blk) : (keepAuth f b).pswReq = (f b).pswReq := rfl
@[simp] theorem keepAuth_replay (f : Blk → Blk) : (keepAuth f b).replay = (f b).replay := rfl
@[simp] theorem keepAuth_free (f : Blk → Blk) : (keepAuth f b).free = (f b).free := rfl
@[simp] theorem keepAuth_stuck (f : Blk → Blk) : (keepAuth f b).stuck = (f b).stuck := rfl

/-- An effect that leaves the authentication state alone is the whole change. -/
theorem keepAuth_eq {f : Blk → Blk} {b : Blk} (h : (f b).auth = b.auth) : keepAuth f b = f b := by
  unfold keepAuth; rw [← h]

end Sys2Proof.Machine
end

