-- ==== Sys2Proof/Laws/Regs.lean ====
section
/-! SUPPORT. The laws of the registers: a register after each update, the rows of the register tables, and where a write of a
register lands. -/

namespace Sys2Proof.Machine

variable (b : Blk)

/-! Reads after updates. -/

theorem reg_congr {b c : Blk} (h : b.regs = c.regs) (a : Nat) : reg b a = reg c a := by
  unfold reg; rw [h]

/-- A register after a write: the value at its address, every other as before. -/
theorem reg_setReg (a : Nat) (v : BitVec 14) (c : Nat) : reg (setReg a v b) c = if c = a then v else reg b c := by
  unfold reg setReg
  by_cases h : c = a
  · subst h; simp
  · rw [if_neg h]; exact kget_kset_of_ne _ _ _ _ h

@[simp] theorem reg_setReg_self (a : Nat) (v : BitVec 14) : reg (setReg a v b) a = v := by
  rw [reg_setReg, if_pos rfl]

theorem reg_setReg_ne {a c : Nat} (v : BitVec 14) (h : c ≠ a) : reg (setReg a v b) c = reg b c := by
  rw [reg_setReg, if_neg h]

theorem reg_orReg (a : Nat) (m : BitVec 14) (c : Nat) : reg (orReg a m b) c = if c = a then reg b a ||| m else reg b c :=
  reg_setReg ..
theorem reg_clrReg (a : Nat) (m : BitVec 14) (c : Nat) : reg (clrReg a m b) c = if c = a then reg b a &&& ~~~m else reg b c :=
  reg_setReg ..
theorem reg_countN (a k : Nat) (c : Nat) :
    reg (countN a k b) c = if c = a then BitVec.ofNat 14 (min 16383 ((reg b a).toNat + k)) else reg b c :=
  reg_setReg ..
theorem reg_count (a : Nat) (c : Nat) :
    reg (count a b) c = if c = a then BitVec.ofNat 14 (min 16383 ((reg b a).toNat + 1)) else reg b c :=
  reg_setReg ..
theorem reg_plainWrite_ne {a c : Nat} (v : BitVec 14) (h : c ≠ a) : reg (plainWrite a v b) c = reg b c := by
  unfold plainWrite; split
  · exact reg_setReg_ne _ _ h
  · rfl
theorem reg_peak_ne {a c : Nat} (k : Nat) (h : c ≠ a) : reg (peak a k b) c = reg b c := by
  unfold peak; split
  · exact reg_setReg_ne _ _ h
  · rfl

@[simp] theorem reg_onField (f : Nat) (g : Field → Field) (a : Nat) : reg (onField f g b) a = reg b a := rfl
@[simp] theorem reg_onEng (f : Nat) (g : Engine → Engine) (a : Nat) : reg (onEng f g b) a = reg b a := rfl
@[simp] theorem reg_onLink (f : Nat) (g : Link → Link) (a : Nat) : reg (onLink f g b) a = reg b a := rfl
@[simp] theorem reg_onTb (g : Tb → Tb) (a : Nat) : reg (onTb g b) a = reg b a := rfl
@[simp] theorem reg_onStw (g : Stw → Stw) (a : Nat) : reg (onStw g b) a = reg b a := rfl
@[simp] theorem reg_onMd (g : Md → Md) (a : Nat) : reg (onMd g b) a = reg b a := rfl
@[simp] theorem reg_onGov (g : Gov → Gov) (a : Nat) : reg (onGov g b) a = reg b a := rfl
@[simp] theorem reg_onHost (g : HostP → HostP) (a : Nat) : reg (onHost g b) a = reg b a := rfl
@[simp] theorem reg_onTrace (g : Trace → Trace) (a : Nat) : reg (onTrace g b) a = reg b a := rfl
@[simp] theorem reg_onMc (g : Mc → Mc) (a : Nat) : reg (onMc g b) a = reg b a := rfl
@[simp] theorem reg_onTap (g : Tap → Tap) (a : Nat) : reg (onTap g b) a = reg b a := rfl
@[simp] theorem reg_onCtx (f k : Nat) (g : Ctx → Ctx) (a : Nat) : reg (onCtx f k g b) a = reg b a := rfl
@[simp] theorem reg_setLatch (m : Master) (k : Nat) (v : BitVec 14) (a : Nat) : reg (setLatch m k v b) a = reg b a := rfl
@[simp] theorem reg_putWord (x : Mem) (w : BitVec 20) (a : Nat) : reg (putWord x w b) a = reg b a := rfl
@[simp] theorem reg_putSrc (f k : Nat) (y : Src) (a : Nat) : reg (putSrc f k y b) a = reg b a := rfl
@[simp] theorem reg_keepAuth (f : Blk → Blk) (a : Nat) : reg (keepAuth f b) a = reg (f b) a := rfl

@[simp] theorem fieldOf_setReg (a : Nat) (v : BitVec 14) (f : Nat) : fieldOf (setReg a v b) f = fieldOf b f := rfl
@[simp] theorem fieldOf_orReg (a : Nat) (v : BitVec 14) (f : Nat) : fieldOf (orReg a v b) f = fieldOf b f := rfl
@[simp] theorem fieldOf_clrReg (a : Nat) (v : BitVec 14) (f : Nat) : fieldOf (clrReg a v b) f = fieldOf b f := rfl
@[simp] theorem fieldOf_countN (a k : Nat) (f : Nat) : fieldOf (countN a k b) f = fieldOf b f := rfl
@[simp] theorem fieldOf_count (a : Nat) (f : Nat) : fieldOf (count a b) f = fieldOf b f := rfl
@[simp] theorem fieldOf_onTb (g : Tb → Tb) (f : Nat) : fieldOf (onTb g b) f = fieldOf b f := rfl
@[simp] theorem fieldOf_onStw (g : Stw → Stw) (f : Nat) : fieldOf (onStw g b) f = fieldOf b f := rfl
@[simp] theorem fieldOf_onMd (g : Md → Md) (f : Nat) : fieldOf (onMd g b) f = fieldOf b f := rfl
@[simp] theorem fieldOf_onGov (g : Gov → Gov) (f : Nat) : fieldOf (onGov g b) f = fieldOf b f := rfl
@[simp] theorem fieldOf_onHost (g : HostP → HostP) (f : Nat) : fieldOf (onHost g b) f = fieldOf b f := rfl
@[simp] theorem fieldOf_onTrace (g : Trace → Trace) (f : Nat) : fieldOf (onTrace g b) f = fieldOf b f := rfl
@[simp] theorem fieldOf_onMc (g : Mc → Mc) (f : Nat) : fieldOf (onMc g b) f = fieldOf b f := rfl
@[simp] theorem fieldOf_onTap (g : Tap → Tap) (f : Nat) : fieldOf (onTap g b) f = fieldOf b f := rfl
@[simp] theorem fieldOf_setLatch (m : Master) (k : Nat) (v : BitVec 14) (f : Nat) : fieldOf (setLatch m k v b) f = fieldOf b f := rfl
@[simp] theorem fieldOf_putWord (x : Mem) (w : BitVec 20) (f : Nat) : fieldOf (putWord x w b) f = fieldOf b f := rfl
@[simp] theorem fieldOf_onEng (i : Nat) (g : Engine → Engine) (f : Nat) : fieldOf (onEng i g b) f = fieldOf b f := rfl
@[simp] theorem fieldOf_onLink (i : Nat) (g : Link → Link) (f : Nat) : fieldOf (onLink i g b) f = fieldOf b f := rfl
@[simp] theorem fieldOf_onCtx (i k : Nat) (g : Ctx → Ctx) (f : Nat) : fieldOf (onCtx i k g b) f = fieldOf b f := rfl
@[simp] theorem fieldOf_keepAuth (g : Blk → Blk) (f : Nat) : fieldOf (keepAuth g b) f = fieldOf (g b) f := rfl
@[simp] theorem fieldOf_plainWrite (a : Nat) (v : BitVec 14) (f : Nat) : fieldOf (plainWrite a v b) f = fieldOf b f := by
  unfold plainWrite; split <;> rfl
@[simp] theorem fieldOf_peak (a k : Nat) (f : Nat) : fieldOf (peak a k b) f = fieldOf b f := by
  unfold peak; split <;> rfl

@[simp] theorem engOf_setReg (a : Nat) (v : BitVec 14) (f : Nat) : engOf (setReg a v b) f = engOf b f := rfl
@[simp] theorem engOf_orReg (a : Nat) (v : BitVec 14) (f : Nat) : engOf (orReg a v b) f = engOf b f := rfl
@[simp] theorem engOf_clrReg (a : Nat) (v : BitVec 14) (f : Nat) : engOf (clrReg a v b) f = engOf b f := rfl
@[simp] theorem engOf_countN (a k : Nat) (f : Nat) : engOf (countN a k b) f = engOf b f := rfl
@[simp] theorem engOf_count (a : Nat) (f : Nat) : engOf (count a b) f = engOf b f := rfl
@[simp] theorem engOf_onTb (g : Tb → Tb) (f : Nat) : engOf (onTb g b) f = engOf b f := rfl
@[simp] theorem engOf_onStw (g : Stw → Stw) (f : Nat) : engOf (onStw g b) f = engOf b f := rfl
@[simp] theorem engOf_onMd (g : Md → Md) (f : Nat) : engOf (onMd g b) f = engOf b f := rfl
@[simp] theorem engOf_onGov (g : Gov → Gov) (f : Nat) : engOf (onGov g b) f = engOf b f := rfl
@[simp] theorem engOf_onHost (g : HostP → HostP) (f : Nat) : engOf (onHost g b) f = engOf b f := rfl
@[simp] theorem engOf_onTrace (g : Trace → Trace) (f : Nat) : engOf (onTrace g b) f = engOf b f := rfl
@[simp] theorem engOf_onMc (g : Mc → Mc) (f : Nat) : engOf (onMc g b) f = engOf b f := rfl
@[simp] theorem engOf_onTap (g : Tap → Tap) (f : Nat) : engOf (onTap g b) f = engOf b f := rfl
@[simp] theorem engOf_setLatch (m : Master) (k : Nat) (v : BitVec 14) (f : Nat) : engOf (setLatch m k v b) f = engOf b f := rfl
@[simp] theorem engOf_putWord (x : Mem) (w : BitVec 20) (f : Nat) : engOf (putWord x w b) f = engOf b f := rfl
@[simp] theorem engOf_onField (i : Nat) (g : Field → Field) (f : Nat) : engOf (onField i g b) f = engOf b f := rfl
@[simp] theorem engOf_onLink (i : Nat) (g : Link → Link) (f : Nat) : engOf (onLink i g b) f = engOf b f := rfl
@[simp] theorem engOf_putSrc (i k : Nat) (y : Src) (f : Nat) : engOf (putSrc i k y b) f = engOf b f := rfl
@[simp] theorem engOf_keepAuth (g : Blk → Blk) (f : Nat) : engOf (keepAuth g b) f = engOf (g b) f := rfl
@[simp] theorem engOf_plainWrite (a : Nat) (v : BitVec 14) (f : Nat) : engOf (plainWrite a v b) f = engOf b f := by
  unfold plainWrite; split <;> rfl
@[simp] theorem engOf_peak (a k : Nat) (f : Nat) : engOf (peak a k b) f = engOf b f := by
  unfold peak; split <;> rfl

@[simp] theorem linkOf_setReg (a : Nat) (v : BitVec 14) (f : Nat) : linkOf (setReg a v b) f = linkOf b f := rfl
@[simp] theorem linkOf_orReg (a : Nat) (v : BitVec 14) (f : Nat) : linkOf (orReg a v b) f = linkOf b f := rfl
@[simp] theorem linkOf_clrReg (a : Nat) (v : BitVec 14) (f : Nat) : linkOf (clrReg a v b) f = linkOf b f := rfl
@[simp] theorem linkOf_countN (a k : Nat) (f : Nat) : linkOf (countN a k b) f = linkOf b f := rfl
@[simp] theorem linkOf_count (a : Nat) (f : Nat) : linkOf (count a b) f = linkOf b f := rfl
@[simp] theorem linkOf_onTb (g : Tb → Tb) (f : Nat) : linkOf (onTb g b) f = linkOf b f := rfl
@[simp] theorem linkOf_onStw (g : Stw → Stw) (f : Nat) : linkOf (onStw g b) f = linkOf b f := rfl
@[simp] theorem linkOf_onMd (g : Md → Md) (f : Nat) : linkOf (onMd g b) f = linkOf b f := rfl
@[simp] theorem linkOf_onGov (g : Gov → Gov) (f : Nat) : linkOf (onGov g b) f = linkOf b f := rfl
@[simp] theorem linkOf_onHost (g : HostP → HostP) (f : Nat) : linkOf (onHost g b) f = linkOf b f := rfl
@[simp] theorem linkOf_onTrace (g : Trace → Trace) (f : Nat) : linkOf (onTrace g b) f = linkOf b f := rfl
@[simp] theorem linkOf_onMc (g : Mc → Mc) (f : Nat) : linkOf (onMc g b) f = linkOf b f := rfl
@[simp] theorem linkOf_onTap (g : Tap → Tap) (f : Nat) : linkOf (onTap g b) f = linkOf b f := rfl
@[simp] theorem linkOf_setLatch (m : Master) (k : Nat) (v : BitVec 14) (f : Nat) : linkOf (setLatch m k v b) f = linkOf b f := rfl
@[simp] theorem linkOf_putWord (x : Mem) (w : BitVec 20) (f : Nat) : linkOf (putWord x w b) f = linkOf b f := rfl
@[simp] theorem linkOf_onField (i : Nat) (g : Field → Field) (f : Nat) : linkOf (onField i g b) f = linkOf b f := rfl
@[simp] theorem linkOf_onEng (i : Nat) (g : Engine → Engine) (f : Nat) : linkOf (onEng i g b) f = linkOf b f := rfl
@[simp] theorem linkOf_onCtx (i k : Nat) (g : Ctx → Ctx) (f : Nat) : linkOf (onCtx i k g b) f = linkOf b f := rfl
@[simp] theorem linkOf_putSrc (i k : Nat) (y : Src) (f : Nat) : linkOf (putSrc i k y b) f = linkOf b f := rfl
@[simp] theorem linkOf_keepAuth (g : Blk → Blk) (f : Nat) : linkOf (keepAuth g b) f = linkOf (g b) f := rfl
@[simp] theorem linkOf_plainWrite (a : Nat) (v : BitVec 14) (f : Nat) : linkOf (plainWrite a v b) f = linkOf b f := by
  unfold plainWrite; split <;> rfl
@[simp] theorem linkOf_peak (a k : Nat) (f : Nat) : linkOf (peak a k b) f = linkOf b f := by
  unfold peak; split <;> rfl

@[simp] theorem ctxOf_setReg (a : Nat) (v : BitVec 14) (f c : Nat) : ctxOf (setReg a v b) f c = ctxOf b f c := rfl
@[simp] theorem ctxOf_orReg (a : Nat) (v : BitVec 14) (f c : Nat) : ctxOf (orReg a v b) f c = ctxOf b f c := rfl
@[simp] theorem ctxOf_clrReg (a : Nat) (v : BitVec 14) (f c : Nat) : ctxOf (clrReg a v b) f c = ctxOf b f c := rfl
@[simp] theorem ctxOf_countN (a k : Nat) (f c : Nat) : ctxOf (countN a k b) f c = ctxOf b f c := rfl
@[simp] theorem ctxOf_count (a : Nat) (f c : Nat) : ctxOf (count a b) f c = ctxOf b f c := rfl
@[simp] theorem ctxOf_onTb (g : Tb → Tb) (f c : Nat) : ctxOf (onTb g b) f c = ctxOf b f c := rfl
@[simp] theorem ctxOf_onStw (g : Stw → Stw) (f c : Nat) : ctxOf (onStw g b) f c = ctxOf b f c := rfl
@[simp] theorem ctxOf_onMd (g : Md → Md) (f c : Nat) : ctxOf (onMd g b) f c = ctxOf b f c := rfl
@[simp] theorem ctxOf_onGov (g : Gov → Gov) (f c : Nat) : ctxOf (onGov g b) f c = ctxOf b f c := rfl
@[simp] theorem ctxOf_onHost (g : HostP → HostP) (f c : Nat) : ctxOf (onHost g b) f c = ctxOf b f c := rfl
@[simp] theorem ctxOf_onTrace (g : Trace → Trace) (f c : Nat) : ctxOf (onTrace g b) f c = ctxOf b f c := rfl
@[simp] theorem ctxOf_onMc (g : Mc → Mc) (f c : Nat) : ctxOf (onMc g b) f c = ctxOf b f c := rfl
@[simp] theorem ctxOf_onTap (g : Tap → Tap) (f c : Nat) : ctxOf (onTap g b) f c = ctxOf b f c := rfl
@[simp] theorem ctxOf_setLatch (m : Master) (k : Nat) (v : BitVec 14) (f c : Nat) : ctxOf (setLatch m k v b) f c = ctxOf b f c := rfl
@[simp] theorem ctxOf_putWord (x : Mem) (w : BitVec 20) (f c : Nat) : ctxOf (putWord x w b) f c = ctxOf b f c := rfl
@[simp] theorem ctxOf_onField (i : Nat) (g : Field → Field) (f c : Nat) : ctxOf (onField i g b) f c = ctxOf b f c := rfl
@[simp] theorem ctxOf_onLink (i : Nat) (g : Link → Link) (f c : Nat) : ctxOf (onLink i g b) f c = ctxOf b f c := rfl
@[simp] theorem ctxOf_putSrc (i k : Nat) (y : Src) (f c : Nat) : ctxOf (putSrc i k y b) f c = ctxOf b f c := rfl
@[simp] theorem ctxOf_keepAuth (g : Blk → Blk) (f c : Nat) : ctxOf (keepAuth g b) f c = ctxOf (g b) f c := rfl
@[simp] theorem ctxOf_plainWrite (a : Nat) (v : BitVec 14) (f c : Nat) : ctxOf (plainWrite a v b) f c = ctxOf b f c := by
  unfold plainWrite; split <;> rfl
@[simp] theorem ctxOf_peak (a k : Nat) (f c : Nat) : ctxOf (peak a k b) f c = ctxOf b f c := by
  unfold peak; split <;> rfl

/-! Rows, by unit. -/

theorem regRow_aB {off : Nat} (h : off < 0x1000) : regRow (aB off) = blkRow off := by
  unfold regRow aB
  rw [if_neg (by omega), if_pos (by omega), show 0x0F00000 + off - 0x0F00000 = off by omega]

theorem regRow_aF {f off : Nat} (hf : f < 8) (h : off < 0x1000) : regRow (aF f off) = fieldRow off := by
  unfold regRow aF
  iterate 3 rw [if_neg (by omega)]
  rw [if_pos (by omega),
    show (0x0F10000 + f * 0x1000 + off - 0x0F10000) % 0x1000 = off by omega]

theorem regRow_aE {e off : Nat} (he : e < 64) (h : off < 0x40) : regRow (aE e off) = regFind engRegs off := by
  unfold regRow aE
  iterate 5 rw [if_neg (by omega)]
  rw [if_pos (by omega),
    show (0x0F20000 + e * 0x40 + off - 0x0F20000) % 0x40 = off by omega]

theorem regRow_aL {l off : Nat} (hl : l < 96) (h : off < 0x10) : regRow (aL l off) = regFind lnkRegs off := by
  unfold regRow aL
  iterate 7 rw [if_neg (by omega)]
  rw [if_pos (by omega), show (0x0F30000 + l * 0x10 + off - 0x0F30000) % 0x10 = off by omega]

/-- A write under a row's access codes is a write of the value that they leave. -/
theorem plainWrite_row {a : Nat} {d : RegD} (v : BitVec 14) (h : regRow a = some d) :
    plainWrite a v b = setReg a (writeRow d (reg b a) v) b := by
  unfold plainWrite; rw [h]

/-! Writes, by unit. -/

theorem regHere_aB {off : Nat} (h : off < 0x1000) : regHere b (aB off) = true := by
  unfold regHere aB
  rw [if_neg (by omega), if_pos (by omega)]

theorem regHere_aF {f off : Nat} (hf : f < 8) (h : off < 0x1000) : regHere b (aF f off) = clocked b f := by
  unfold regHere aF
  iterate 3 rw [if_neg (by omega)]
  rw [if_pos (by omega),
    show (0x0F10000 + f * 0x1000 + off - 0x0F10000) / 0x1000 = f by omega]

theorem regHere_aE {e off : Nat} (he : e < 64) (h : off < 0x40) : regHere b (aE e off) = clocked b (fldOf e) := by
  unfold regHere aE fldOf
  iterate 5 rw [if_neg (by omega)]
  rw [if_pos (by omega),
    show (0x0F20000 + e * 0x40 + off - 0x0F20000) / 0x200 = e / 8 by omega]

theorem regHere_aL {l off : Nat} (hl : l < 96) (h : off < 0x10) : regHere b (aL l off) = decide (l < nLinks b) := by
  unfold regHere aL
  iterate 7 rw [if_neg (by omega)]
  rw [if_pos (by omega), show (0x0F30000 + l * 0x10 + off - 0x0F30000) / 0x10 = l by omega]

/-- A register that answers, is no doorbell and is no timebase register under NOBCLK takes the write of its unit. -/
theorem regWrite_unit {m : Master} {a : Nat} {sq : Option Nat} {c : BCell} (hd : isDoorbell a = false) (hh : regHere b a = true)
    (hn : (isTbReg a && nobclk b) = false) : regWrite m a sq c b =
      if a < 0x0F01000 then blkWrite m (a - 0x0F00000) c b
      else if a < 0x0F18000 then fieldWrite m ((a - 0x0F10000) / 0x1000) (a % 0x1000) sq c b
      else if a < 0x0F21000 then engWrite m ((a - 0x0F20000) / 0x40) (a % 0x40) c b
      else if a % 0x10 = 0 then linkCtlWrite ((a - 0x0F30000) / 0x10) c.v b
      else plainWrite a c.v b := by
  unfold regWrite
  rw [hd, hh, hn]
  rfl

/-- What is outside the field units, or at no offset 0x100, is no doorbell. -/
theorem isDoorbell_no {a : Nat} (h : a < 0x0F10000 ∨ 0x0F18000 ≤ a ∨ a % 0x1000 ≠ 0x100) : isDoorbell a = false := by
  unfold isDoorbell
  rw [← Bool.not_eq_true]
  simp only [Bool.and_eq_true, decide_eq_true_eq]
  omega

theorem isTbReg_ge {a : Nat} (h : 0x0F01000 ≤ a) : isTbReg a = false := by
  unfold isTbReg
  simp
  omega

theorem regWrite_aB {off : Nat} (h : off < 0x1000) (hn : (isTbReg (aB off) && nobclk b) = false) (m : Master) (sq : Option Nat)
    (c : BCell) : regWrite m (aB off) sq c b = blkWrite m off c b := by
  rw [regWrite_unit b (isDoorbell_no (by unfold aB; omega)) (regHere_aB b h) hn]
  unfold aB
  rw [if_pos (by omega), show 0x0F00000 + off - 0x0F00000 = off by omega]

theorem regWrite_aF {f off : Nat} (hf : f < 8) (h : off < 0x1000) (hd : off ≠ 0x100) (m : Master) (sq : Option Nat) (c : BCell)
    (hc : clocked b f = true) : regWrite m (aF f off) sq c b = fieldWrite m f off sq c b := by
  rw [regWrite_unit b (isDoorbell_no (by unfold aF; omega)) (by rw [regHere_aF b hf h, hc])
    (by rw [isTbReg_ge (by unfold aF; omega)]; rfl)]
  unfold aF
  rw [if_neg (by omega), if_pos (by omega), show (0x0F10000 + f * 0x1000 + off - 0x0F10000) / 0x1000 = f by omega,
    show (0x0F10000 + f * 0x1000 + off) % 0x1000 = off by omega]

theorem regWrite_aE {e off : Nat} (he : e < 64) (h : off < 0x40) (m : Master) (sq : Option Nat) (c : BCell)
    (hc : clocked b (fldOf e) = true) : regWrite m (aE e off) sq c b = engWrite m e off c b := by
  rw [regWrite_unit b (isDoorbell_no (by unfold aE; omega)) (by rw [regHere_aE b he h, hc])
    (by rw [isTbReg_ge (by unfold aE; omega)]; rfl)]
  unfold aE
  iterate 2 rw [if_neg (by omega)]
  rw [if_pos (by omega), show (0x0F20000 + e * 0x40 + off - 0x0F20000) / 0x40 = e by omega,
    show (0x0F20000 + e * 0x40 + off) % 0x40 = off by omega]

theorem regWrite_aL {l : Nat} (hl : l < 96) (m : Master) (sq : Option Nat) (c : BCell) (hc : l < nLinks b) :
    regWrite m (aL l 0) sq c b = linkCtlWrite l c.v b := by
  rw [regWrite_unit b (isDoorbell_no (by unfold aL; omega)) (by rw [regHere_aL b hl (by decide), decide_eq_true hc])
    (by rw [isTbReg_ge (by unfold aL; omega)]; rfl)]
  unfold aL
  iterate 3 rw [if_neg (by omega)]
  rw [if_pos (by omega), show (0x0F30000 + l * 0x10 + 0 - 0x0F30000) / 0x10 = l by omega]

/-- A clean cell written to a register of its row is the register's write. -/
theorem regCmd_clean {m : Master} {a : Nat} {c : BCell} {fits : Bool} (hw : b.md.warm = false) (hf : fits = true)
    (hp : c.p = false) :
    regCmd m a c fits b = regWrite m a (slotOfMaster b ((a - 0x0F10000) / 0x1000) m) c b := by
  unfold regCmd regStore
  simp [hw, hf, hp]

/-- A register of an island that does not answer takes no write, unless it is a doorbell (R335). -/
theorem regWrite_absent (m : Master) (a : Nat) (sq : Option Nat) (c : BCell) (hd : isDoorbell a = false)
    (h : regHere b a = false) : regWrite m a sq c b = b := by
  unfold regWrite; rw [hd, h]; rfl

theorem clocked_lt {f : Nat} (h : clocked b f = true) : f < 8 := by
  simp only [clocked, powered, Bool.and_eq_true, decide_eq_true_eq] at h
  have := h.1.1
  unfold nFields at this
  split at this
  · omega
  · split at this <;> omega

theorem nFields_le : nFields b ≤ 8 := by
  unfold nFields; split
  · omega
  · split <;> omega

end Sys2Proof.Machine
end

