-- ==== Sys2Proof/Laws/Calm.lean ====
section
/-! SUPPORT. What raising a source and debiting the ledger can do (R335, R341, R373): everything outside the event
controllers, the ledger, the error records and the wake of a sleeper stays as it was. -/

namespace Sys2Proof.Machine

/-- `c` differs from `b` at most where a raise or a debit may make a difference. -/
structure Calm (b c : Blk) : Prop where
  cfg : c.cfg = b.cfg := by first | rfl | (intros; rfl)
  latch : c.latch = b.latch := by first | rfl | (intros; rfl)
  tb : c.tb = b.tb := by first | rfl | (intros; rfl)
  links : c.links = b.links := by first | rfl | (intros; rfl)
  stw : c.stw = b.stw := by first | rfl | (intros; rfl)
  host : c.host = b.host := by first | rfl | (intros; rfl)
  tap : c.tap = b.tap := by first | rfl | (intros; rfl)
  auth : c.auth = b.auth := by first | rfl | (intros; rfl)
  trace : c.trace = b.trace := by first | rfl | (intros; rfl)
  mc : c.mc = b.mc := by first | rfl | (intros; rfl)
  gov : c.gov = b.gov := by first | rfl | (intros; rfl)
  fabSwap : c.fabSwap = b.fabSwap := by first | rfl | (intros; rfl)
  statCnt : c.statCnt = b.statCnt := by first | rfl | (intros; rfl)
  pswReq : c.pswReq = b.pswReq := by first | rfl | (intros; rfl)
  free : c.free = b.free := by first | rfl | (intros; rfl)
  stuck : c.stuck = b.stuck := by first | rfl | (intros; rfl)
  off : c.md.off = b.md.off := by first | rfl | (intros; rfl)
  warm : c.md.warm = b.md.warm := by first | rfl | (intros; rfl)
  drain : c.md.drainTo = b.md.drainTo := by first | rfl | (intros; rfl)
  words : ∀ a, a < 0x220000 → rawWord c a = rawWord b a := by first | rfl | (intros; rfl)
  regs : ∀ a, quietReg a = true → reg c a = reg b a := by first | rfl | (intros; rfl)
  eng : ∀ e, bare (engOf c e) = bare (engOf b e) := by first | rfl | (intros; rfl)
  path : ∀ f, pathOf (fieldOf c f) = pathOf (fieldOf b f) := by first | rfl | (intros; rfl)
  woke : ∀ e k, Woken (ctxOf b e k) (ctxOf c e k) := by intros; exact .inl (Eq.refl _)

theorem Calm.rfl (b : Blk) : Calm b b := {}

theorem Woken.trans {x y z : Ctx} (h : Woken x y) (k : Woken y z) : Woken x z := by
  rcases h with rfl | ⟨h1, rfl⟩
  · exact k
  · rcases k with rfl | ⟨k1, _⟩
    · exact .inr ⟨h1, Eq.refl _⟩
    · exact absurd k1 (by simp)

theorem Woken.still {x y : Ctx} (h : Woken x y) : Sys2Proof.Machine.still y = Sys2Proof.Machine.still x := by
  rcases h with rfl | ⟨_, rfl⟩ <;> rfl

theorem Calm.trans {a b c : Blk} (h : Calm a b) (k : Calm b c) : Calm a c where
  cfg := k.cfg.trans h.cfg
  latch := k.latch.trans h.latch
  tb := k.tb.trans h.tb
  links := k.links.trans h.links
  stw := k.stw.trans h.stw
  host := k.host.trans h.host
  tap := k.tap.trans h.tap
  auth := k.auth.trans h.auth
  trace := k.trace.trans h.trace
  mc := k.mc.trans h.mc
  gov := k.gov.trans h.gov
  fabSwap := k.fabSwap.trans h.fabSwap
  statCnt := k.statCnt.trans h.statCnt
  pswReq := k.pswReq.trans h.pswReq
  free := k.free.trans h.free
  stuck := k.stuck.trans h.stuck
  off := k.off.trans h.off
  warm := k.warm.trans h.warm
  drain := k.drain.trans h.drain
  words := fun a ha => (k.words a ha).trans (h.words a ha)
  regs := fun a ha => (k.regs a ha).trans (h.regs a ha)
  eng := fun e => (k.eng e).trans (h.eng e)
  path := fun f => (k.path f).trans (h.path f)
  woke := fun e i => (h.woke e i).trans (k.woke e i)

theorem Calm.ctx {b c : Blk} (h : Calm b c) (e k : Nat) : still (ctxOf c e k) = still (ctxOf b e k) := (h.woke e k).still
theorem Calm.fst {b c : Blk} (h : Calm b c) (e : Nat) : (engOf c e).fst = (engOf b e).fst :=
  (congrArg (fun x => x.fst) (h.eng e) :)
theorem Calm.run {b c : Blk} (h : Calm b c) (e : Nat) : (engOf c e).run = (engOf b e).run :=
  (congrArg (fun x => x.run) (h.eng e) :)
theorem Calm.data {b c : Blk} (h : Calm b c) (e k : Nat) : (ctxOf c e k).data = (ctxOf b e k).data :=
  (show (still (ctxOf c e k)).data = (still (ctxOf b e k)).data from by rw [h.ctx e k])
theorem Calm.ret {b c : Blk} (h : Calm b c) (e k : Nat) : (ctxOf c e k).ret = (ctxOf b e k).ret :=
  (show (still (ctxOf c e k)).ret = (still (ctxOf b e k)).ret from by rw [h.ctx e k])
theorem Calm.ps {b c : Blk} (h : Calm b c) (e k : Nat) : (ctxOf c e k).ps = (ctxOf b e k).ps :=
  (show (still (ctxOf c e k)).ps = (still (ctxOf b e k)).ps from by rw [h.ctx e k])
theorem Calm.clocked {b c : Blk} (h : Calm b c) (f : Nat) : Sys2Proof.Machine.clocked c f = Sys2Proof.Machine.clocked b f := by
  have h1 : (fieldOf c f).pwr = (fieldOf b f).pwr := congrArg (fun x => x.1) (h.path f)
  have h2 : (fieldOf c f).clk = (fieldOf b f).clk := congrArg (fun x => x.2.1) (h.path f)
  unfold Sys2Proof.Machine.clocked powered nFields
  rw [h.cfg, h1, h2]

/-! Folds. -/

theorem each_calm {α : Type} {f : α → Blk → Blk} (h : ∀ x b, Calm b (f x b)) (l : List α) (b : Blk) : Calm b (each f l b) := by
  induction l generalizing b with
  | nil => exact Calm.rfl b
  | cons x xs ih => exact (h x b).trans (ih (f x b))

/-! Steps that are calm. -/

/-- A write of a noisy register. -/
theorem setReg_calm {a : Nat} (v : BitVec 14) (b : Blk) (h : quietReg a = false) : Calm b (setReg a v b) := by
  exact { regs := fun c hc => reg_setReg_ne b v (fun e => by rw [e, h] at hc; exact absurd hc (by decide)) }

/-- The offsets of the noisy field registers. -/
def noisyOff (off : Nat) : Bool :=
  decide (0x102 ≤ off ∧ off < 0x107) || decide (0x18F ≤ off ∧ off < 0x194) || [0x1C1, 0x1CD, 0x1CE, 0x1CF].contains off

theorem noisyB {off : Nat} (h1 : 0x1C0 ≤ off) (h2 : off < 0x1C8) : quietReg (aB off) = false := by
  have : aB 0x1C0 ≤ aB off ∧ aB off < aB 0x1C8 := by unfold aB; omega
  simp [quietReg, this]

theorem noisyF {f off : Nat} (hf : f < 8) (h : noisyOff off = true) (hl : off < 0x1000) : quietReg (aF f off) = false := by
  have h1 : aF 0 0 ≤ aF f off ∧ aF f off < aF 8 0 := by unfold aF; omega
  have h2 : aF f off % 0x1000 = off := by unfold aF; omega
  unfold noisyOff at h
  simp only [quietReg, h1, h2, h]
  simp

theorem noisyE {e : Nat} (he : e < 64) : quietReg (aE e 0x28) = false := by
  have h1 : aE 0 0 ≤ aE e 0x28 ∧ aE e 0x28 < aE 64 0 ∧ aE e 0x28 % 0x40 = 0x28 := by unfold aE; omega
  simp only [quietReg, h1]
  simp

theorem onField_calm {f : Nat} {g : Field → Field} (b : Blk) (h : ∀ x, pathOf (g x) = pathOf x) : Calm b (onField f g b) := by
  exact { path := fun k => by rw [fieldOf_onField]; split <;> first | exact h _ | rfl }

theorem onEng_calm {e : Nat} {g : Engine → Engine} (b : Blk) (h : ∀ x, bare (g x) = bare x ∧ (g x).ctxs = x.ctxs) :
    Calm b (onEng e g b) := by
  exact {
    eng := fun i => by rw [engOf_onEng]; split <;> first | exact (h _).1 | rfl
    woke := fun i k => by rw [ctxOf_onEng, (h _).2]; split <;> exact .inl (Eq.refl _) }

theorem onMd_calm {g : Md → Md} (b : Blk) (h : ∀ x, (g x).off = x.off ∧ (g x).warm = x.warm ∧ (g x).drainTo = x.drainTo) :
    Calm b (onMd g b) := by
  exact { off := (h _).1, warm := (h _).2.1, drain := (h _).2.2 }

/-! Raises. -/

theorem wakeCtx_woken (y : Ctx) : Woken y (wakeCtx y) := by
  unfold wakeCtx
  split
  · exact .inr ⟨‹_›, Eq.refl _⟩
  · exact .inl (Eq.refl _)

theorem wakeEng_calm (e : Nat) (b : Blk) : Calm b (wakeEng e b) := by
  have h : ∀ y, still (wakeCtx y) = still y := fun y => (wakeCtx_woken y).still
  unfold wakeEng
  refine { eng := fun i => ?_, woke := fun i k => ?_ }
  · rw [engOf_onEng]
    split
    · unfold bare mapAll
      simp [List.map_map, Function.comp_def, h]
    · rfl
  · rw [ctxOf_onEng]
    split
    · rename_i hi
      dsimp only
      rw [getAt_mapAll Ctx.cold]
      split
      · rw [hi.1]; exact wakeCtx_woken _
      · rename_i hk
        refine .inl ?_
        unfold ctxOf getAt
        rw [nth_out (by have := (engOf b i).ctxs.2; omega)]
    · exact .inl (Eq.refl _)

theorem refreshLines_calm (f : Nat) (b : Blk) : Calm b (refreshLines f b) := by
  unfold refreshLines
  refine (each_calm (fun k b => ?_) _ b).trans (onField_calm _ (fun x => rfl))
  split
  · exact wakeEng_calm _ _
  · exact Calm.rfl b

theorem putSrc_calm (f s : Nat) (x : Src) (b : Blk) : Calm b (putSrc f s x b) := onField_calm b (fun _ => rfl)

/-! The same, after what is calm already: the outermost update first. -/

variable {b c : Blk}

theorem Calm.setReg {a : Nat} {v : BitVec 14} (h : Calm b c) (q : quietReg a = false) :
    Calm b (Sys2Proof.Machine.setReg a v c) := h.trans (setReg_calm v c q)
theorem Calm.orReg {a : Nat} {m : BitVec 14} (h : Calm b c) (q : quietReg a = false) :
    Calm b (Sys2Proof.Machine.orReg a m c) := h.trans (setReg_calm _ c q)
theorem Calm.countN {a k : Nat} (h : Calm b c) (q : quietReg a = false) :
    Calm b (Sys2Proof.Machine.countN a k c) := h.trans (setReg_calm _ c q)
theorem Calm.count {a : Nat} (h : Calm b c) (q : quietReg a = false) :
    Calm b (Sys2Proof.Machine.count a c) := h.trans (setReg_calm _ c q)
theorem Calm.onField {f : Nat} {g : Field → Field} (h : Calm b c) (q : ∀ x, pathOf (g x) = pathOf x) :
    Calm b (Sys2Proof.Machine.onField f g c) := h.trans (onField_calm c q)
theorem Calm.onEng {e : Nat} {g : Engine → Engine} (h : Calm b c) (q : ∀ x, bare (g x) = bare x ∧ (g x).ctxs = x.ctxs) :
    Calm b (Sys2Proof.Machine.onEng e g c) := h.trans (onEng_calm c q)
theorem Calm.onMd {g : Md → Md} (h : Calm b c)
    (q : ∀ x, (g x).off = x.off ∧ (g x).warm = x.warm ∧ (g x).drainTo = x.drainTo) :
    Calm b (Sys2Proof.Machine.onMd g c) := h.trans (onMd_calm c q)
theorem Calm.putSrc {f s : Nat} {x : Src} (h : Calm b c) : Calm b (Sys2Proof.Machine.putSrc f s x c) :=
  h.trans (putSrc_calm f s x c)
theorem Calm.refreshLines {f : Nat} (h : Calm b c) : Calm b (Sys2Proof.Machine.refreshLines f c) :=
  h.trans (refreshLines_calm f c)

theorem lostRaise_calm {f : Nat} (hf : f < 8) (b : Blk) : Calm b (lostRaise f b) :=
  Calm.orReg (Calm.count (Calm.rfl b) (noisyF hf (by decide) (by decide))) (noisyF hf (by decide) (by decide))

theorem Calm.lostRaise {f : Nat} (hf : f < 8) (h : Calm b c) : Calm b (Sys2Proof.Machine.lostRaise f c) :=
  h.trans (lostRaise_calm hf c)

theorem setHit_calm {j : Nat} (hj : j < 32) (b : Blk) : Calm b (setHit j b) :=
  (Calm.rfl b).orReg (noisyB (by omega) (by omega))

theorem each_mem_calm {α : Type} {f : α → Blk → Blk} (l : List α) (h : ∀ x ∈ l, ∀ b, Calm b (f x b)) (b : Blk) :
    Calm b (each f l b) := by
  induction l generalizing b with
  | nil => exact Calm.rfl b
  | cons x xs ih =>
    exact (h x (List.mem_cons_self ..) b).trans (ih (fun y hy => h y (List.mem_cons_of_mem _ hy)) (f x b))

theorem fumarole_calm (f s : Nat) (o : Bool) (b : Blk) : Calm b (fumarole f s o b) := by
  have h1 : Calm b (each setHit (watchers b f s) b) :=
    each_mem_calm _ (fun j hj b => setHit_calm (List.mem_range.mp (List.mem_filter.mp hj).1) b) b
  have h2 : Calm b (onMd (fun m => { m with wakeReq := true, byList := true }) (each setHit (watchers b f s) b)) :=
    h1.onMd (fun x => ⟨rfl, rfl, rfl⟩)
  simp only [fumarole]
  split
  · cases o
    · exact (Calm.rfl b).count (noisyB (by decide) (by decide))
    · exact (Calm.rfl b).count (noisyB (by decide) (by decide))
  · split
    · exact h2
    · exact h2.trans {}

theorem putWord_srcTab_calm (f off : Nat) (w : BitVec 20) (b : Blk) : Calm b (putWord (.srcTab f off) w b) := by
  exact { words := fun a ha => kget_kset_of_ne (0 : BitVec 20) 0 b.mem _ (by simp only [memAddr]; omega) }

theorem bucketAdd_calm {f : Nat} (hf : f < 8) (b : Blk) : Calm b (bucketAdd f b).1 := by
  simp only [bucketAdd]
  split
  · split
    · exact Calm.orReg (Calm.onField (Calm.rfl b) (fun _ => rfl)) (noisyF hf (by decide) (by decide))
    · exact Calm.onField (Calm.rfl b) (fun _ => rfl)
  · exact Calm.rfl b

theorem noteRead_srcTab_calm {f : Nat} (hf : f < 8) (off : Nat) (r : EccRead) (mc : Nat) (b : Blk) :
    Calm b (noteRead (.srcTab f off) r mc b).1 := by
  unfold noteRead
  simp only [memField]
  cases r.cls
  · dsimp only; split
    · exact Calm.rfl b
    · exact Calm.count (Calm.rfl b) (noisyF hf (by decide) (by decide))
  · exact Calm.rfl b
  · have h : Calm b (bucketAdd f (count (aF f 0x1CD) b)).1 :=
      (Calm.count (a := aF f 0x1CD) (Calm.rfl b) (noisyF hf (by decide) (by decide))).trans (bucketAdd_calm hf _)
    simp only [writeBack]
    split
    · exact h.trans (putWord_srcTab_calm f off _ _)
    · exact h
  · exact Calm.orReg (Calm.count (Calm.rfl b) (noisyF hf (by decide) (by decide))) (noisyF hf (by decide) (by decide))

theorem readMem_srcTab_calm {f : Nat} (hf : f < 8) (off mc : Nat) (b : Blk) : Calm b (readMem (.srcTab f off) mc b).2.1 := by
  unfold readMem
  split
  · exact Calm.rfl b
  · exact noteRead_srcTab_calm hf off _ mc b

theorem raiseEach_calm {one : Nat → Nat → Blk → Blk} (h : ∀ f s b, Calm b (one f s b)) (l : List (Nat × Nat)) (b : Blk) :
    Calm b (raiseEach one l b) := by
  induction l generalizing b with
  | nil => exact Calm.rfl b
  | cons x xs ih => exact (h x.1 x.2 b).trans (ih _)

theorem raiseN_calm (n f s : Nat) (b : Blk) : Calm b (raiseN n f s b) := by
  induction n generalizing f s b with
  | zero => exact Calm.rfl b
  | succ n ih =>
    unfold raiseN
    split
    · exact Calm.rfl b
    · rename_i h0
      have hf : f < 8 := by have := nFields_le b; omega
      split
      · exact fumarole_calm f s true b
      · split
        · exact fumarole_calm f s false b
        · have h1 := (readMem_srcTab_calm hf (2 * s) 9 b).trans (readMem_srcTab_calm hf (2 * s + 1) 9 _)
          dsimp only
          refine h1.trans ?_
          refine Calm.trans ?_ (raiseEach_calm ih _ _)
          split
          · exact Calm.orReg (Calm.lostRaise hf (Calm.rfl _)) (noisyF hf (by decide) (by decide))
          · split
            · exact Calm.refreshLines (Calm.putSrc (Calm.rfl _))
            · exact Calm.rfl _

/-- Everything that a raise can do. -/
theorem raise_calm (f s : Nat) (b : Blk) : Calm b (raise f s b) := raiseN_calm 4 f s b
theorem raiseAll_calm (l : List (Nat × Nat)) (b : Blk) : Calm b (raiseAll l b) := raiseEach_calm raise_calm l b
theorem raiseFields_calm (s : Nat) (b : Blk) : Calm b (raiseFields s b) := each_calm (fun f b => raise_calm f s b) _ b
theorem stwRaise_calm (s : Nat) (b : Blk) : Calm b (stwRaise s b) := by
  unfold stwRaise; dsimp only; split
  · exact fumarole_calm _ _ _ b
  · exact raise_calm _ _ b

/-! Debits. -/

theorem Calm.raise {f s : Nat} (h : Calm b c) : Calm b (Sys2Proof.Machine.raise f s c) := h.trans (raise_calm f s c)

theorem takeEu_calm {f : Nat} (hf : f < 8) (d : Nat) (b : Blk) : Calm b (takeEu f d b) := by
  have h1 : Calm b (orReg (aF f 0x18F) 4 (onField f (fun g => { g with bal := floorOf b f, floorCyc := true }) b)) :=
    Calm.orReg (Calm.onField (Calm.rfl b) (fun _ => rfl)) (noisyF hf (by decide) (by decide))
  unfold takeEu
  generalize hg : fieldOf b f = g
  dsimp only
  generalize orReg (aF f 0x18F) 4 _ = d1 at h1 ⊢
  have h2 : Calm b (if g.floorCyc then d1 else count (aF f 0x191) d1) := by
    split
    · exact h1
    · exact h1.count (noisyF hf (by decide) (by decide))
  split
  · exact Calm.rfl b
  · split
    · split
      · exact h2
      · exact Calm.raise (Calm.onField h2 (fun _ => rfl))
    · exact Calm.onField (Calm.rfl b) (fun _ => rfl)

theorem fldOf_lt {e : Nat} (he : e < 64) : fldOf e < 8 := by unfold fldOf; omega

theorem promote_calm {e : Nat} (he : e < 64) (b : Blk) : Calm b (promote e b) := by
  unfold promote
  exact Calm.countN (Calm.onEng (Calm.rfl b) (fun _ => ⟨rfl, rfl⟩))
    (noisyF (fldOf_lt he) (by decide) (by decide))

theorem promoteField_calm {f : Nat} (hf : f < 8) (b : Blk) : Calm b (promoteField f b) :=
  each_mem_calm _ (fun k hk b => promote_calm (by have := List.mem_range.mp hk; omega) b) b

theorem addEssential_calm {e : Nat} (he : e < 64) (x : Nat) (b : Blk) : Calm b (addEssential e x b) := by
  unfold addEssential
  exact Calm.onField (Calm.countN (Calm.onEng (Calm.rfl b) (fun _ => ⟨rfl, rfl⟩)) (noisyE he)) (fun _ => rfl)

theorem suspendEssential_calm {f : Nat} (hf : f < 8) (b : Blk) : Calm b (suspendEssential f b) := by
  unfold suspendEssential
  have h : Calm b (raise f 460 (orReg (aF f 0x18F) 8 (onField f (fun g => { g with esusp := true }) b))) :=
    Calm.raise (Calm.orReg (Calm.onField (Calm.rfl b) (fun _ => rfl)) (noisyF hf (by decide) (by decide)))
  exact h.trans (promoteField_calm hf _)

theorem capEssential_calm {f : Nat} (hf : f < 8) (b : Blk) : Calm b (capEssential f b) := by
  unfold capEssential
  split
  · exact suspendEssential_calm hf b
  · exact Calm.rfl b

theorem spendEssential_calm {e : Nat} (he : e < 64) (x : Nat) (b : Blk) : Calm b (spendEssential e x b) :=
  (addEssential_calm he x b).trans (capEssential_calm (fldOf_lt he) _)

theorem takeSixteenths_calm {f : Nat} (hf : f < 8) (x : Nat) (b : Blk) : Calm b (takeSixteenths f x b) := by
  unfold takeSixteenths
  have h : Calm b (onField f (fun g => { g with rem := ((fieldOf b f).rem + x) % 16 }) b) :=
    Calm.onField (Calm.rfl b) (fun _ => rfl)
  exact h.trans (takeEu_calm hf _ _)

theorem addModelled_calm (f x : Nat) (b : Blk) : Calm b (addModelled f x b) := by
  unfold addModelled
  exact Calm.onField (Calm.rfl b) (fun _ => rfl)

/-- Everything that a debit can do. -/
theorem debit_calm {e : Nat} (he : e < 64) (c k n : Nat) (b : Blk) : Calm b (debit e c k n b) := by
  have h := fun x y => (addModelled_calm (fldOf e) x b).trans (takeSixteenths_calm (fldOf_lt he) y _)
  have h2 := h (costOf b k * n) (costOf b k * (fieldOf b (fldOf e)).kUsed / 1024 * n)
  unfold debit
  dsimp only
  split
  · exact Calm.rfl b
  · split
    · exact h2.trans (spendEssential_calm he _ _)
    · exact h2

theorem cycleEnd_calm (f : Nat) (b : Blk) : Calm b (cycleEnd f b) := onField_calm b (fun _ => rfl)

theorem times_calm {f : Blk → Blk} (h : ∀ b, Calm b (f b)) (n : Nat) (b : Blk) : Calm b (times f n b) := by
  induction n generalizing b with
  | zero => exact Calm.rfl b
  | succ n ih => exact (h b).trans (ih (f b))

theorem debitCycles_calm {e : Nat} (he : e < 64) (c k n : Nat) (b : Blk) : Calm b (debitCycles e c k n b) :=
  times_calm (fun b => (debit_calm he c k 1 b).trans (cycleEnd_calm _ _)) n b

end Sys2Proof.Machine
end

