-- ==== Sys2Proof/Laws/Syllable.lean ====
section
/-! SUPPORT. What an engine that issues a syllable can do around the syllable's own work: the commit, the context's next
place, the end of a debug step, and the checks that pass where every operand is cached and nothing is under way. -/

namespace Sys2Proof.Machine

variable {s : Site} {b c d t : Blk}

/-! The frame. -/

theorem Kept.rfl (s : Site) (b : Blk) : Kept s b b :=
  ⟨fun _ _ => .refl _, fun _ _ => .refl _, .refl _, .inl (.refl _), fun _ _ _ => .inl (.refl _), fun _ => .refl _, fun _ => .refl _, .refl _, .refl _,
   .refl _, .refl _, .refl _, .refl _, .refl _, .refl _⟩

theorem woke_trans {x y z : Nat} (h : y = x ∨ (x = 2 ∧ y = 1)) (k : z = y ∨ (y = 2 ∧ z = 1)) : z = x ∨ (x = 2 ∧ z = 1) := by
  omega

theorem Woken.state {x y : Ctx} (h : Woken x y) : y.state = x.state ∨ (x.state = 2 ∧ y.state = 1) := by
  rcases h with rfl | ⟨h, rfl⟩
  · exact .inl (.refl _)
  · exact .inr ⟨h, .refl _⟩

theorem Kept.trans (h : Kept s b c) (k : Kept s c d) : Kept s b d where
  words a ha := (k.words a ha).trans (h.words a ha)
  regs a ha := (k.regs a ha).trans (h.regs a ha)
  mine := k.mine.trans h.mine
  state := woke_trans h.state k.state
  ctxs i j hn := (h.ctxs i j hn).trans (k.ctxs i j hn)
  engs i := (k.engs i).trans (h.engs i)
  fields f := (k.fields f).trans (h.fields f)
  links := k.links.trans h.links
  tb := k.tb.trans h.tb
  latch := k.latch.trans h.latch
  stw := k.stw.trans h.stw
  host := k.host.trans h.host
  tap := k.tap.trans h.tap
  mc := k.mc.trans h.mc
  gov := k.gov.trans h.gov

/-- An update of the own context's place, PS or stacks. -/
theorem kept_onCtx {g : Ctx → Ctx} (h : ∀ y, rest (g y) = rest y) (hs : ∀ y, (g y).state = y.state) :
    Kept s b (onCtx s.e s.c g b) := by
  refine ⟨fun _ _ => .refl _, fun _ _ => .refl _, ?_, ?_, ?_, ?_, fun _ => .refl _, .refl _, .refl _, .refl _, .refl _, .refl _,
    .refl _, .refl _, .refl _⟩
  · rw [ctxOf_onCtx]; split <;> first | exact h _ | rfl
  · rw [ctxOf_onCtx]; split <;> first | exact .inl (hs _) | exact .inl (.refl _)
  · intro i k hn
    rw [ctxOf_onCtx, if_neg]
    · exact .inl (.refl _)
    rintro ⟨⟨rfl, _⟩, rfl, _⟩
    cases hn <;> contradiction
  · intro i; unfold onCtx; rw [engOf_onEng]; split <;> rfl

/-- The frame, with the own context as it was but for its STATE. -/
structure Around (s : Site) (b c : Blk) : Prop extends Kept s b c where
  own : Woken (ctxOf b s.e s.c) (ctxOf c s.e s.c)

theorem Around.rfl (s : Site) (b : Blk) : Around s b b := ⟨.rfl s b, .inl (.refl _)⟩
theorem Around.trans (h : Around s b c) (k : Around s c d) : Around s b d :=
  ⟨h.toKept.trans k.toKept, h.own.trans k.own⟩

theorem rest_of_still {x y : Ctx} (h : still x = still y) : rest x = rest y := (congrArg rest h :)
theorem deep_of_bare {x y : Engine} (h : bare x = bare y) : deep x = deep y := (congrArg deep h :)
theorem quiet_of_calm {e a : Nat} (h : calmReg e a = true) : quietReg a = true := by
  unfold calmReg at h; exact (Bool.and_eq_true_iff.mp h).1

theorem Calm.around (s : Site) (h : Calm b c) : Around s b c where
  words := h.words
  regs a ha := h.regs a (quiet_of_calm ha)
  mine := rest_of_still (h.ctx _ _)
  state := (h.woke _ _).state
  ctxs i k _ := h.woke i k
  engs i := deep_of_bare (h.eng i)
  fields := h.path
  links := h.links
  tb := h.tb
  latch := h.latch
  stw := h.stw
  host := h.host
  tap := h.tap
  mc := h.mc
  gov := h.gov
  own := h.woke _ _

/-- An update of one engine's housekeeping, as it stands. -/
theorem around_at {e : Nat} {g : Engine → Engine} (h : ∀ {x}, x = engOf b e → deep (g x) = deep x) (hc : ∀ x, (g x).ctxs = x.ctxs) :
    Around s b (onEng e g b) := by
  refine ⟨⟨fun _ _ => .refl _, fun _ _ => .refl _, ?_, ?_, ?_, ?_, fun _ => .refl _, .refl _, .refl _, .refl _, .refl _, .refl _,
    .refl _, .refl _, .refl _⟩, ?_⟩
  · rw [ctxOf_onEng, hc]; split <;> rfl
  · rw [ctxOf_onEng, hc]; split <;> exact .inl (.refl _)
  · intro i k _; rw [ctxOf_onEng, hc]; split <;> exact .inl (.refl _)
  · intro i; rw [engOf_onEng]; split <;> rename_i hi <;> first | exact h (by rw [hi.1]) | rfl
  · rw [ctxOf_onEng, hc]; split <;> exact .inl (.refl _)

/-- An update of an engine's housekeeping. -/
theorem around_onEng {e : Nat} {g : Engine → Engine} (h : ∀ x, deep (g x) = deep x) (hc : ∀ x, (g x).ctxs = x.ctxs) :
    Around s b (onEng e g b) := around_at (fun {x} _ => h x) hc

theorem run_deep {x y : Blk} {e : Nat} (h : deep (engOf y e) = deep (engOf x e)) : (engOf y e).run = (engOf x e).run :=
  congrArg (fun z => z.2.2.2.2.2.2.2.2.2.2.1) h
theorem ctxq_deep {x y : Blk} {e : Nat} (h : deep (engOf y e) = deep (engOf x e)) : (engOf y e).ctxq = (engOf x e).ctxq :=
  congrArg (fun z => z.2.2.2.2.2.2.2.2.2.2.2) h

theorem around_onField {f : Nat} {g : Field → Field} (h : ∀ x, pathOf (g x) = pathOf x) : Around s b (onField f g b) :=
  (onField_calm b h).around s

theorem around_setReg {a : Nat} {v : BitVec 14} (h : calmReg s.e a = false) : Around s b (setReg a v b) := by
  refine ⟨⟨fun _ _ => .refl _, ?_, .refl _, .inl (.refl _), fun _ _ _ => .inl (.refl _), fun _ => .refl _, fun _ => .refl _, .refl _, .refl _,
   .refl _, .refl _, .refl _, .refl _, .refl _, .refl _⟩, .inl (.refl _)⟩
  intro a' ha
  exact reg_setReg_ne b v (fun e => by rw [e, h] at ha; cases ha)

theorem around_debug {off : Nat} {v : BitVec 14} (h : off = 0x31 ∨ off = 0x32 ∨ off = 0x33) :
    Around s b (setReg (aE s.e off) v b) := by
  refine around_setReg ?_
  rcases h with rfl | rfl | rfl <;> simp [calmReg]

theorem around_traced {off : Nat} {v : BitVec 14} (h : off = 0x2A3 ∨ off = 0x2A4) :
    Around s b (setReg (aF (fldOf s.e) off) v b) := by
  refine around_setReg ?_
  rcases h with rfl | rfl <;> simp [calmReg]

theorem traceField_around (p : TPacket) (b : Blk) : Around s b (traceField (fldOf s.e) p b) := by
  unfold traceField
  split
  · exact ((around_traced (s := s) (off := 0x2A4) (.inr (.refl _))).trans (around_traced (off := 0x2A3) (.inl (.refl _)))).trans
      ((raise_calm _ _ _).around s)
  · exact around_onField (fun _ => .refl _)

theorem showHalted_around (b : Blk) : Around s b (showHalted s.e b) := by
  unfold showHalted
  dsimp only
  split
  · exact (around_debug (.inr (.inl (.refl _)))).trans (around_debug (.inr (.inr (.refl _))))
  · exact .rfl s b

theorem haltPacket_around (i : Nat) (b : Blk) : Around s b (haltPacket s.e i b) := by
  unfold haltPacket
  split
  · exact traceField_around _ b
  · exact .rfl s b

theorem haltNow_around (k : Nat) (b : Blk) : Around s b (haltNow s.e k b) := by
  have h1 : Around s b (onEng s.e (fun x => { x with halted := true, haltReq := none, stepping := false }) b) :=
    around_onEng (fun _ => .refl _) (fun _ => .refl _)
  unfold haltNow
  generalize onEng s.e (fun x => { x with halted := true, haltReq := none, stepping := false }) b = c at h1
  dsimp only
  have h2 := h1.trans (around_debug (v := putf (reg c (aE s.e 0x31)) 8 4 k) (.inl (.refl _)))
  have h3 := h2.trans (showHalted_around _)
  have h4 := h3.trans ((raise_calm (fldOf s.e) 486 _).around s)
  exact h4.trans (haltPacket_around k _)

/-- A debug step that ends while a context runs. -/
theorem endStep_around (h : (engOf b s.e).run ≠ none) : Around s b (endStep s.e b) := by
  unfold endStep
  split
  · split
    · exact around_onEng (fun _ => .refl _) (fun _ => .refl _)
    · split
      · exact absurd ‹(engOf b s.e).run = none› h
      · exact haltNow_around 2 b
  · exact .rfl s b

/-! The commit. -/

theorem Calm.ctxq (h : Calm b c) (e : Nat) : (engOf c e).ctxq = (engOf b e).ctxq := congrArg (fun x => x.ctxq) (h.eng e)

theorem clearGot_around (hq : (engOf b s.e).ctxq = []) : Around s b (clearGot s.e b) := by
  unfold clearGot
  split
  · exact .rfl s b
  · have h1 : Around s b (onEng s.e (fun x => { x with hmNeed := 0, hmGot := [] }) b) :=
      around_onEng (fun _ => .refl _) (fun _ => .refl _)
    refine h1.trans ?_
    have h2 := (ctxq_deep (h1.engs s.e)).trans hq
    generalize onEng s.e (fun x => { x with hmNeed := 0, hmGot := [] }) b = c at h2
    unfold flushCtx
    rw [h2]
    split
    · refine around_at (fun e => ?_) (fun _ => .refl _)
      unfold deep
      rw [e, h2]
    · exact .rfl s c

theorem takeFree_around (x : Blk) : Around s x (takeFree x).2 :=
  ⟨⟨fun _ _ => .refl _, fun _ _ => .refl _, .refl _, .inl (.refl _), fun _ _ _ => .inl (.refl _), fun _ => .refl _, fun _ => .refl _,
    .refl _, .refl _, .refl _, .refl _, .refl _, .refl _, .refl _, .refl _⟩, .inl (.refl _)⟩

theorem starveCount_calm {f : Nat} (hf : f < 8) (b : Blk) : Calm b (starveCount f b) := by
  unfold starveCount
  split
  · exact (Calm.rfl b).count (noisyF hf (by decide) (by decide))
  · exact Calm.rfl b

/-- A boundary or commit point, with no write of a context register waiting. -/
theorem spent_around (he : s.e < 64) (hq : (engOf b s.e).ctxq = []) : Around s b (spent s b) := by
  have h1 := ((clearGot_around hq).trans ((cycleEnd_calm s.field _).around s)).trans ((starveCount_calm (fldOf_lt he) _).around s)
  unfold spent
  dsimp only
  split
  · exact (h1.trans (takeFree_around _)).trans (around_onEng (fun _ => .refl _) (fun _ => .refl _))
  · exact h1

theorem ranNow_around (he : s.e < 64) (hq : (engOf b s.e).ctxq = []) : Around s b (ranNow s b) := by
  have h1 : Around s b (onEng s.e (fun x => { x with last := upd (fun _ => 0) x.last s.c }) b) :=
    around_onEng (fun _ => .refl _) (fun _ => .refl _)
  exact h1.trans (spent_around he ((ctxq_deep (h1.engs s.e)).trans hq))

theorem dwCount_around (b : Blk) : Around s b (dwCount s b) := around_onField (fun _ => .refl _)

theorem pay_calm (he : s.e < 64) (k : Nat) (b : Blk) : Calm b (pay s k b) := debit_calm he _ _ _ b

theorem lockOf_deep {x y : Blk} (h : deep (engOf y s.e) = deep (engOf x s.e)) : lockOf y s.e s.c = lockOf x s.e s.c := by
  have : (engOf y s.e).locks = (engOf x s.e).locks := congrArg (fun z => z.2.2.2.2.2.2.2.1) h
  unfold lockOf
  rw [this]

theorem payOwed_around (he : s.e < 64) (b : Blk) : Around s b (payOwed s b) := by
  unfold payOwed
  split
  · exact .rfl s b
  · exact ((each_calm (fun k b => pay_calm he k b) _ b).around s).trans (around_onEng (fun _ => .refl _) (fun _ => .refl _))

/-- A commit with no locked sequence open, and no write of a context register waiting. -/
theorem committed_around (he : s.e < 64) (hq : (engOf b s.e).ctxq = []) (hl : lockOf b s.e s.c = none) (taken : Bool) :
    Around s b (committed s taken b) := by
  have h0 := payOwed_around he b
  have h1 : Around s b (payBase s taken (payOwed s b)) := by
    unfold payBase
    split
    · exact h0.trans ((pay_calm he _ _).around s)
    · exact h0
  have h2 := (h1.trans (ranNow_around he ((ctxq_deep (h1.engs s.e)).trans hq))).trans (dwCount_around _)
  have h3 := (lockOf_deep (h2.engs s.e)).trans hl
  unfold committed lockCount
  rw [h3]
  exact h2

/-- Where the context stands after a syllable that falls through. -/
theorem goOn_spec (hc : s.c < 5) (he : s.e < 64) (hp : wid s.tw (s.ctx b).pc = s.pc) (hn : wid s.tw s.next = s.next) :
    Kept s b (goOn s b) ∧ WentOn s (goOn s b) ∧ (s.ctx (goOn s b)).data = (s.ctx b).data ∧
      (s.ctx (goOn s b)).ret = (s.ctx b).ret ∧ (s.ctx (goOn s b)).ps = (s.ctx b).ps := by
  have go : ∀ (g : Ctx → Ctx) (x : Bool), (∀ y, rest (g y) = rest y) → (∀ y, (g y).state = y.state) →
      Kept s b (onEng s.e (fun x' => { x' with pairB := x }) (onCtx s.e s.c g b)) ∧
      s.ctx (onEng s.e (fun x' => { x' with pairB := x }) (onCtx s.e s.c g b)) = g (s.ctx b) := by
    intro g x hg hgs
    have k : ∀ z : Blk, Around s z (onEng s.e (fun x' => { x' with pairB := x }) z) :=
      fun z => around_onEng (fun _ => .refl _) (fun _ => .refl _)
    refine ⟨(kept_onCtx hg hgs).trans (k _).toKept, ?_⟩
    unfold Site.ctx
    rw [ctxOf_onEng, if_pos ⟨.refl _, he⟩]
    show ctxOf (onCtx s.e s.c g b) s.e s.c = _
    rw [ctxOf_onCtx, if_pos ⟨⟨.refl _, he⟩, .refl _, hc⟩]
  unfold goOn
  split
  · rename_i h
    obtain ⟨h1, h2⟩ := go (fun y => { y with pc := s.next, sylb := false }) false (fun _ => .refl _) (fun _ => .refl _)
    refine ⟨h1, ?_⟩
    unfold WentOn Site.ctx at *
    rw [h2]
    simp [after, h, hn]
  · rename_i h
    obtain ⟨h1, h2⟩ := go (fun y => { y with sylb := true }) (pairsUp (fld s.cell 7 7) (fld s.cell 0 7)) (fun _ => .refl _) (fun _ => .refl _)
    refine ⟨h1, ?_⟩
    unfold WentOn Site.ctx at *
    rw [h2]
    simp [after, h, hp]

/-- Everything that a syllable that falls through does besides its own work, with no locked sequence open. -/
theorem finish_done (he : s.e < 64) (hc : s.c < 5) (hq : (engOf b s.e).ctxq = []) (hl : lockOf b s.e s.c = none) (hr : (engOf b s.e).run ≠ none)
    (hp : wid s.tw (s.ctx b).pc = s.pc) (hn : wid s.tw s.next = s.next) :
    Kept s b (finish s (.done b)) ∧ WentOn s (finish s (.done b)) ∧ (s.ctx (finish s (.done b))).data = (s.ctx b).data ∧
      (s.ctx (finish s (.done b))).ret = (s.ctx b).ret ∧ (s.ctx (finish s (.done b))).ps = (s.ctx b).ps := by
  have h1 := committed_around he hq hl false
  have hp1 : wid s.tw (s.ctx (committed s false b)).pc = s.pc := by
    rw [show (s.ctx (committed s false b)).pc = (s.ctx b).pc from congrArg (fun y => y.pc) h1.own.still]; exact hp
  obtain ⟨g1, g2, g3, g4, g5⟩ := goOn_spec hc he hp1 hn
  have h2 : (s.ctx (goOn s (committed s false b))).data = (s.ctx b).data :=
    g3.trans (congrArg (fun y => y.data) h1.own.still)
  have h3 : (s.ctx (goOn s (committed s false b))).ret = (s.ctx b).ret :=
    g4.trans (congrArg (fun y => y.ret) h1.own.still)
  have h4 : (s.ctx (goOn s (committed s false b))).ps = (s.ctx b).ps :=
    g5.trans (congrArg (fun y => y.ps) h1.own.still)
  have k := h1.toKept.trans g1
  simp only [finish]
  split
  · exact ⟨k, g2, h2, h3, h4⟩
  · have hr2 : (engOf (goOn s (committed s false b)) s.e).run ≠ none := by
      rw [run_deep (k.engs s.e)]; exact hr
    have e := endStep_around (s := s) hr2
    refine ⟨k.trans e.toKept, ?_, ?_, ?_, ?_⟩
    · unfold WentOn at *
      have e1 := congrArg (fun y => y.pc) e.own.still
      have e2 := congrArg (fun y => y.sylb) e.own.still
      dsimp only [still] at e1 e2
      rw [e1, e2]; exact g2
    · exact (congrArg (fun y => y.data) e.own.still).trans h2
    · exact (congrArg (fun y => y.ret) e.own.still).trans h3
    · exact (congrArg (fun y => y.ps) e.own.still).trans h4

/-! The checks. -/

theorem settleLast_none {p : LOp → Bool} {e : Nat} (h : (engOf b e).lops = []) : settleLast p e b = b := by
  unfold settleLast
  rw [h]
  rfl

theorem settleLops_none {e : Nat} (h : (engOf b e).lops = []) : settleLops e b = b := by
  unfold settleLops
  rw [h]
  rfl

theorem meetPending_none (h : (engOf b s.e).lops = []) (y : Syl) : meetPending s y b = b := settleLast_none h

theorem needData_ok {k : Nat} (h : k ≤ (s.ctx b).data.length) : needData s k b = .ok b := by
  unfold needData
  rw [if_pos h]

theorem needRet_ok {k : Nat} (h : k ≤ (s.ctx b).ret.length) : needRet s k b = .ok b := by
  unfold needRet
  rw [if_pos h]

theorem roomData_ok {o i : Nat} (h : (s.ctx b).data.length + i - o ≤ capData s.c) (g : (s.ctx b).dgrp = 0) :
    roomData s o i b = .ok b := by
  unfold roomData
  dsimp only
  rw [if_pos ⟨h, .inl g⟩, if_pos g]

theorem roomRet_ok {o i : Nat} (h : (s.ctx b).ret.length + i - o ≤ capRet s.c) (g : (s.ctx b).rgrp = 0) :
    roomRet s o i b = .ok b := by
  unfold roomRet
  dsimp only
  rw [if_pos ⟨h, .inl g⟩, if_pos g]

/-- Every check passes where the operands are cached, there is room, nothing bites and no privilege is missing. `c` is the block
that the syllable's own further check answers. -/
theorem prepare_ok {y : Syl} (hl : (engOf b s.e).lops = [])
    (h1 : chkOperands s y b = .ok b) (h2 : chkFloat s y b = .ok b)
    (h3 : y.din ≤ (s.ctx b).data.length) (h4 : y.rin ≤ (s.ctx b).ret.length) (h5 : y.chk s b = .ok c)
    (h6 : (s.ctx c).data.length + y.dout - y.din ≤ capData s.c) (h7 : (s.ctx c).dgrp = 0)
    (h8 : (s.ctx c).ret.length + y.rout - y.rin ≤ capRet s.c) (h9 : (s.ctx c).rgrp = 0) (h10 : chkFloat s y c = .ok c) :
    prepare s y b = .ok c := by
  unfold prepare
  simp only [meetPending_none hl, h1, Chk.next]
  have : (if dataFails s y b = true then Chk.ok b else chkFloat s y b) = .ok b := by split <;> simp [h2]
  simp only [this, needData_ok h3, needRet_ok h4, h1, h5, roomData_ok h6 h7, roomRet_ok h8 h9, h10]

/-- An engine at a syllable executes it. -/
theorem syllable_at {e id : Nat} (h : atSyllable b e id = some (s, c)) (y : Syl) :
    b.md.off = false ∧ syllable id y e b = finish s ((prepare s y c).then (y.body s)) := by
  unfold atSyllable at h
  split at h
  · cases h
  · rename_i ho
    refine ⟨by simpa using ho, ?_⟩
    split at h
    · rename_i s' b1 ha
      split at h
      · rename_i hm
        split at h
        · rename_i b2 hi
          obtain ⟨rfl, rfl⟩ : s' = s ∧ b2 = c := by simpa using h
          unfold syllable perform carryOut
          simp only [ha, hm.1, if_true, hm.2, hi, Chk.next]
        · cases h
      · cases h
    · cases h

end Sys2Proof.Machine
end

