-- ==== Sys2Proof/Laws/Arrive.lean ====
section
/-! SUPPORT. What an engine's arrival at its next syllable can do: the fetches, what they count and correct, the comparators. -/

namespace Sys2Proof.Machine

variable {s : Site} {b c d : Blk}

theorem Fetched.rfl (b : Blk) : Fetched b b :=
  ⟨fun _ _ => .inl (.refl _), fun _ => .refl _, fun _ => .refl _, .refl _, .refl _, .refl _, .refl _, .refl _, .refl _, .refl _,
   .refl _, .refl _, .refl _⟩

theorem Fetched.trans (h : Fetched b c) (k : Fetched c d) : Fetched b d where
  ctxs i j := (h.ctxs i j).trans (k.ctxs i j)
  engs i := (k.engs i).trans (h.engs i)
  fields f := (k.fields f).trans (h.fields f)
  cfg := k.cfg.trans h.cfg
  links := k.links.trans h.links
  tb := k.tb.trans h.tb
  latch := k.latch.trans h.latch
  stw := k.stw.trans h.stw
  host := k.host.trans h.host
  tap := k.tap.trans h.tap
  auth := k.auth.trans h.auth
  mc := k.mc.trans h.mc
  gov := k.gov.trans h.gov

theorem Calm.fetched (h : Calm b c) : Fetched b c :=
  ⟨h.woke, fun i => deep_of_bare (h.eng i), h.path, h.cfg, h.links, h.tb, h.latch, h.stw, h.host, h.tap, h.auth, h.mc, h.gov⟩

theorem fetched_setReg (a : Nat) (v : BitVec 14) (b : Blk) : Fetched b (setReg a v b) :=
  ⟨fun _ _ => .inl (.refl _), fun _ => .refl _, fun _ => .refl _, .refl _, .refl _, .refl _, .refl _, .refl _, .refl _, .refl _,
   .refl _, .refl _, .refl _⟩

theorem fetched_putWord (m : Mem) (w : BitVec 20) (b : Blk) : Fetched b (putWord m w b) :=
  ⟨fun _ _ => .inl (.refl _), fun _ => .refl _, fun _ => .refl _, .refl _, .refl _, .refl _, .refl _, .refl _, .refl _, .refl _,
   .refl _, .refl _, .refl _⟩

theorem fetched_onField {f : Nat} {g : Field → Field} (h : ∀ x, pathOf (g x) = pathOf x) : Fetched b (onField f g b) :=
  (onField_calm b h).fetched

theorem fetched_onEng {e : Nat} {g : Engine → Engine} (h : ∀ x, deep (g x) = deep x) (hc : ∀ x, (g x).ctxs = x.ctxs) :
    Fetched b (onEng e g b) := by
  refine ⟨?_, ?_, fun _ => .refl _, .refl _, .refl _, .refl _, .refl _, .refl _, .refl _, .refl _, .refl _, .refl _, .refl _⟩
  · intro i k; rw [ctxOf_onEng, hc]; split <;> exact .inl (.refl _)
  · intro i; rw [engOf_onEng]; split <;> first | exact h _ | rfl

theorem each_fetched {α : Type} {f : α → Blk → Blk} (h : ∀ x b, Fetched b (f x b)) (l : List α) (b : Blk) :
    Fetched b (each f l b) := by
  induction l generalizing b with
  | nil => exact .rfl b
  | cons x xs ih => exact (h x b).trans (ih (f x b))

theorem bucketAdd_fetched (f : Nat) (b : Blk) : Fetched b (bucketAdd f b).1 := by
  unfold bucketAdd
  dsimp only
  split
  · split
    · refine Fetched.trans ?_ (fetched_setReg _ _ _)
      exact fetched_onField (fun _ => .refl _)
    · exact fetched_onField (fun _ => .refl _)
  · exact .rfl b

theorem writeBack_fetched (m : Mem) (v : BitVec 14) (b : Blk) : Fetched b (writeBack m v b) := by
  unfold writeBack
  split
  · split
    · exact fetched_onField (fun _ => by split <;> rfl)
    · exact fetched_putWord _ _ b
  · exact .rfl b

theorem noteRead_fetched (m : Mem) (r : EccRead) (mc : Nat) (b : Blk) : Fetched b (noteRead m r mc b).1 := by
  unfold noteRead
  dsimp only
  split
  · exact .rfl b
  · dsimp only; split
    · exact .rfl b
    · exact fetched_setReg _ _ b
  · exact ((fetched_setReg _ _ b).trans (bucketAdd_fetched _ _)).trans (writeBack_fetched _ _ _)
  · have h : Fetched b (orReg (aF (memField m) 0x1C1) 8 (count (aF (memField m) 0x1CE) b)) :=
      (fetched_setReg _ _ b).trans (fetched_setReg _ _ _)
    unfold recordUe
    split
    · exact h.trans ((fetched_setReg _ _ _).trans (fetched_setReg _ _ _))
    · exact h

/-- A counted read of memory. -/
theorem rdMem_fetched (m : Mem) (mc : Nat) (b : Blk) : Fetched b (rdMem m mc b).2 := by
  refine Fetched.trans ?_ (raiseAll_calm _ _).fetched
  unfold readMem
  split
  · exact .rfl b
  · split
    · exact .rfl b
    · exact noteRead_fetched _ _ _ _

theorem fetchWord_fetched (m : Mem) (b : Blk) : Fetched b (fetchWord s m b).2 := by
  unfold fetchWord
  split
  · exact rdMem_fetched _ _ b
  · split
    · exact (fetched_setReg _ _ b).trans (rdMem_fetched _ _ _)
    · exact rdMem_fetched _ _ b

theorem prefetch_fetched (a : BitVec 28) (b : Blk) : Fetched b (prefetch s a b) := by
  unfold prefetch
  split
  · exact .rfl b
  · split
    · split
      · exact .rfl b
      · exact (fetchWord_fetched _ b).trans (fetched_onEng (fun _ => .refl _) (fun _ => .refl _))
    · exact .rfl b

theorem countIssue_fetched (as : List (BitVec 28)) (b : Blk) : Fetched b (countIssue s as b) := by
  unfold countIssue
  dsimp only
  refine Fetched.trans ?_ (fetched_setReg _ _ _)
  exact fetched_onEng (fun _ => .refl _) (fun _ => .refl _)

theorem prefetchAll_fetched (b : Blk) : Fetched b (prefetchAll s b) := by
  unfold prefetchAll
  refine Fetched.trans ?_ (each_fetched (fun x b => prefetch_fetched x b) _ _)
  exact fetched_onEng (fun _ => .refl _) (fun _ => .refl _)

theorem traceField_fetched (f : Nat) (p : TPacket) (b : Blk) : Fetched b (traceField f p b) := by
  unfold traceField
  split
  · exact ((fetched_setReg _ _ b).trans (fetched_setReg _ _ _)).trans (raise_calm _ _ _).fetched
  · exact fetched_onField (fun _ => .refl _)

theorem compare_fetched (b : Blk) : Fetched b (compare s b) := by
  have h0 : Fetched b (onEng s.e (fun x => { x with skipCmp := false }) b) :=
    fetched_onEng (fun _ => .refl _) (fun _ => .refl _)
  unfold compare
  dsimp only
  generalize onEng s.e (fun x => { x with skipCmp := false }) b = c at h0
  split
  · exact h0
  · rename_i k _ _
    have h1 : ∀ l : List Nat, Fetched b (if fld (reg c (aE s.e 0x31)) 12 2 = 0 then c else
        each (fun k b => traceField s.field (fieldPacket b 1 s.field (locOf s.e) k (clean (lo14 s.pc))) b) l c) := by
      intro l
      split
      · exact h0
      · exact h0.trans (each_fetched (fun _ _ => traceField_fetched _ _ _) _ _)
    split
    · exact h1 _
    · exact ((h1 _).trans (fetched_setReg _ _ _)).trans (fetched_onEng (fun _ => .refl _) (fun _ => .refl _))

/-- The inline cells, where they are there and clean, change nothing. -/
theorem chkInline_ok (h : chkInline s b = .ok c) : c = b := by
  unfold chkInline at h
  dsimp only at h
  split at h
  · rename_i a _
    unfold fetchStop at h
    split at h
    · split at h
      · unfold meetsHeld at h
        split at h <;> cases h
      · split at h <;> cases h
    · cases h
  · split at h
    · cases h
    · cases h; rfl

theorem wid_wid (w : Bool) (v : BitVec 28) : wid w (wid w v) = wid w v := by
  unfold wid
  split
  · rfl
  · rw [BitVec.and_assoc]; rfl

theorem engRuns_lt {e : Nat} (h : engRuns b e = true) : e < 64 := by
  unfold engRuns at h
  simp only [Bool.and_eq_true, decide_eq_true_eq] at h
  have := nFields_le b
  have h1 : e < nEngines b := h.1.1.1.1.1.1
  unfold nEngines at h1
  omega

theorem mayIssue_lt {e : Nat} (h : mayIssue b e = true) : e < 64 := by
  unfold mayIssue at h
  simp only [Bool.and_eq_true] at h
  exact engRuns_lt h.1.1

theorem switchIn_run {e c : Nat} (he : e < 64) (b : Blk) : (engOf (switchIn e c b) e).run = some c := by
  unfold switchIn
  split
  · assumption
  · dsimp only
    rw [(debitCycles_calm he _ _ _ _).run]
    unfold onCtx
    rw [engOf_onEng, if_pos ⟨rfl, he⟩]
    dsimp only
    rw [engOf_onEng, if_pos ⟨rfl, he⟩]

/-- What is known of the site at which an engine stands. -/
structure SiteOk (e : Nat) (s : Site) (c : Blk) : Prop where
  eng : s.e = e
  lt : e < 64
  run : (engOf c s.e).run = some s.c
  pc : wid s.tw (s.ctx c).pc = s.pc
  next : wid s.tw s.next = s.next

theorem issueCell_here {s s' : Site} {seen : Bool} (h : issueCell s seen b = .here s' c) :
    s' = s ∧ Fetched b c := by
  have hc : Fetched b (if seen then b else compare s b) := by
    split
    · exact .rfl b
    · exact compare_fetched b
  unfold issueCell at h
  dsimp only at h
  generalize (if seen then b else compare s b) = d at h hc
  have h2 : Fetched b (if seen then d else countIssue s (allInline s s.cell) d) := by
    split
    · exact hc
    · exact hc.trans (countIssue_fetched _ d)
  generalize (if seen then d else countIssue s (allInline s s.cell) d) = x at h h2
  by_cases hx : seen = false ∧ (haltDue d s.e).isSome = true ∧ lockHeld d s.e = false ∧ (engOf d s.e).hmNeed = 0
  · rw [if_pos hx] at h; cases h
  · rw [if_neg hx] at h
    injection h with h3 h4
    subst h4
    exact ⟨h3.symm, h2⟩

theorem fetchCell_inr {s s' : Site} {seen : Bool} (h : fetchCell s b = .inr (s', seen)) : ∃ x, s' = decoded s b x := by
  unfold fetchCell at h
  split at h
  · split at h
    · cases h
    · injection h with h
      injection h with h1 h2
      exact ⟨_, h1.symm⟩
  · cases h

theorem decoded_e (s : Site) (b : Blk) (x : BitVec 14) : (decoded s b x).e = s.e := rfl
theorem decoded_c (s : Site) (b : Blk) (x : BitVec 14) : (decoded s b x).c = s.c := rfl
theorem decoded_tw (s : Site) (b : Blk) (x : BitVec 14) : (decoded s b x).tw = s.tw := rfl
theorem decoded_pc (s : Site) (b : Blk) (x : BitVec 14) : (decoded s b x).pc = s.pc := rfl
theorem decoded_next (s : Site) (b : Blk) (x : BitVec 14) : wid s.tw (decoded s b x).next = (decoded s b x).next := wid_wid _ _

/-- Where the context of an arriving engine stands. -/
theorem arrive_pick {e : Nat} (h : arrive e b = .here s c) : ∃ c0 x seen, e < 64 ∧
    s = decoded (siteAt (switchIn e c0 (newTurn e b)) e c0) (prefetchAll (siteAt (switchIn e c0 (newTurn e b)) e c0) (switchIn e c0 (newTurn e b))) x ∧
    issueCell s seen (prefetchAll (siteAt (switchIn e c0 (newTurn e b)) e c0) (switchIn e c0 (newTurn e b))) = .here s c := by
  unfold arrive at h
  split at h
  · cases h
  · rename_i hm
    have he : e < 64 := mayIssue_lt (by simpa using hm)
    split at h
    · rename_i c0 hp
      split at h
      · cases h
      · cases h
      · refine ⟨c0, ?_⟩
        generalize switchIn e c0 (newTurn e b) = b1 at h
        unfold arriveIn at h
        dsimp only at h
        generalize siteAt b1 e c0 = s0 at h
        generalize prefetchAll s0 b1 = b2 at h
        split at h
        · cases h
        · cases h
        · cases h
        · cases h
        · cases h
        · rename_i s1 seen hf
          obtain ⟨x, hx⟩ := fetchCell_inr hf
          obtain ⟨rfl, _⟩ := issueCell_here h
          exact ⟨x, seen, he, hx, h⟩
    · cases h

/-- The block of an arrival: a switch, then fetches and comparisons. -/
theorem arrive_here {e : Nat} (h : arrive e b = .here s c) :
    SiteOk e s c ∧ s.tw = isTwin (switchIn e s.c (newTurn e b)) e ∧ Fetched (switchIn e s.c (newTurn e b)) c := by
  obtain ⟨c0, x, seen, he, hs, hi⟩ := arrive_pick h
  have hr := switchIn_run (c := c0) he (newTurn e b)
  have hsc : s.c = c0 := by rw [hs, decoded_c]; rfl
  rw [hsc]
  generalize switchIn e c0 (newTurn e b) = b1 at hs hi hr ⊢
  have h1 : (siteAt b1 e c0).e = e := rfl
  have h2 : (siteAt b1 e c0).tw = isTwin b1 e := rfl
  have h3 : (siteAt b1 e c0).pc = wid (isTwin b1 e) (ctxOf b1 e c0).pc := rfl
  generalize siteAt b1 e c0 = s0 at hs hi h1 h2 h3
  have hF := prefetchAll_fetched (s := s0) b1
  generalize prefetchAll s0 b1 = b2 at hs hi hF
  have hse : s.e = e := by rw [hs, decoded_e, h1]
  have hst : s.tw = isTwin b1 e := by rw [hs, decoded_tw, h2]
  have hsp : s.pc = wid s.tw (ctxOf b1 e c0).pc := by rw [hst, ← h3, hs, decoded_pc]
  have hsn : wid s.tw s.next = s.next := by
    have := decoded_next s0 b2 x
    rw [hst, ← h2, hs]; exact this
  have hF := hF.trans (issueCell_here hi).2
  refine ⟨⟨hse, he, ?_, ?_, hsn⟩, hst, hF⟩
  · rw [run_deep (hF.engs _), hse, hr, hsc]
  · have hp : (ctxOf c e c0).pc = (ctxOf b1 e c0).pc := congrArg (fun y => y.pc) (hF.ctxs e c0).still
    unfold Site.ctx
    rw [hse, hsc, hp, hsp]

/-- What is known of the block and the site of a syllable about to execute. -/
theorem atSyllable_site {e id : Nat} (h : atSyllable b e id = some (s, c)) : SiteOk e s c := by
  unfold atSyllable at h
  split at h
  · cases h
  · split at h
    · rename_i s' b1 ha
      split at h
      · split at h
        · rename_i b2 hi
          obtain ⟨rfl, rfl⟩ : s' = s ∧ b2 = c := by simpa using h
          have h1 := (arrive_here ha).1
          rw [chkInline_ok hi]
          exact h1
        · cases h
      · cases h
    · cases h

/-- A syllable about to execute that passes its checks and falls through: the next state has what its work left, the context
goes on, and what the work kept of the block `b0` is kept. -/
theorem leaves_of_done {st : State} {e id : Nat} {y : Syl} {b0 : Blk} (h : Poised st e id s b) (hp : prepare s y b = .ok c)
    (hb : y.body s c = .done d) (hk : Kept s b0 d) (hr : (engOf d s.e).run = (engOf b s.e).run)
    (hq : (engOf d s.e).ctxq = []) (hl : lockOf d s.e s.c = none) (hpc : (s.ctx d).pc = (s.ctx b).pc) :
    Leaves s b0 (s.ctx d).data (s.ctx d).ret (s.ctx d).ps (run (syllable id y e) st) := by
  obtain ⟨ho, hx⟩ := syllable_at h.1 y
  have ok := atSyllable_site h.1
  have he : s.e < 64 := by rw [ok.eng]; exact ok.lt
  rw [hp, Chk.then, hb] at hx
  have hd : (engOf d s.e).run ≠ none := by rw [hr, ok.run]; exact fun h => by cases h
  refine ⟨st.put (keepAuth (syllable id y e) st.blk), by unfold run; rw [ho]; rfl, ?_⟩
  have hpc : wid s.tw (s.ctx d).pc = s.pc := by rw [hpc]; exact ok.pc
  obtain ⟨f1, f2, f3, f4, f5⟩ := finish_done he h.2.ctx hq hl hd hpc ok.next
  unfold keepAuth State.put
  rw [hx]
  exact ⟨f3, f4, f5, f2, (hk.trans f1).words, (hk.trans f1).regs, (hk.trans f1).mine, (hk.trans f1).state, (hk.trans f1).ctxs, (hk.trans f1).engs,
    (hk.trans f1).fields, (hk.trans f1).links, (hk.trans f1).tb, (hk.trans f1).latch, (hk.trans f1).stw, (hk.trans f1).host,
    (hk.trans f1).tap, (hk.trans f1).mc, (hk.trans f1).gov⟩

/-- The same with no locked sequence open, where the syllable's access left the running context alone. -/
theorem leaves_of_access {st : State} {e id : Nat} {y : Syl} {b0 : Blk} (h : Meets st e id s b) (hp : prepare s y b = .ok c)
    (hb : y.body s c = .done d) (hk : Kept s b0 d) (hu : Undisturbed s b b0) (hpc : (s.ctx d).pc = (s.ctx b0).pc) :
    Leaves s b0 (s.ctx d).data (s.ctx d).ret (s.ctx d).ps (run (syllable id y e) st) :=
  leaves_of_done h.1 hp hb hk ((run_deep (hk.engs _)).trans hu.run) ((ctxq_deep (hk.engs _)).trans hu.ctxq) (((lockOf_deep (hk.engs _)).trans hu.lock).trans h.2)
    (hpc.trans hu.pc)

theorem Settled.still (h : Settled s b) : Undisturbed s b b := ⟨.refl _, .refl _, .refl _, h.ctxq⟩

/-- The checks of a syllable that is neither a float syllable nor the kernel's alone. -/
theorem prepare_plain {y : Syl} (h : Settled s b) (hf : y.float = false) (hk : y.kernel = false) (hb : y.bad s b = none)
    (hp : biteIn (s.ctx b).data y.poi = none) (hq : biteIn (s.ctx b).ret y.rpoi = none)
    (hd : y.din ≤ (s.ctx b).data.length) (hr : y.rin ≤ (s.ctx b).ret.length) (hc : y.chk s b = .ok b)
    (gd : (s.ctx b).data.length + y.dout - y.din ≤ capData s.c) (gr : (s.ctx b).ret.length + y.rout - y.rin ≤ capRet s.c) :
    prepare s y b = .ok b := by
  have h2 : chkFloat s y b = .ok b := by unfold chkFloat; rw [if_pos hf]
  refine prepare_ok h.lops ?_ h2 hd hr hc gd h.dgrp gr h.rgrp h2
  unfold chkOperands chkBites
  simp [hf, hk, hb, hp, hq]

/-- What the work of a syllable on its own context leaves. -/
theorem ctx_onCtx {g : Ctx → Ctx} (he : s.e < 64) (hc : s.c < 5) : s.ctx (onCtx s.e s.c g b) = g (s.ctx b) := by
  unfold Site.ctx
  rw [ctxOf_onCtx, if_pos ⟨⟨.refl _, he⟩, .refl _, hc⟩]

/-- A syllable whose work is an update of its own context's stacks and flags. -/
theorem leaves_onCtx {st : State} {e id : Nat} {y : Syl} {g : Ctx → Ctx} (h : Meets st e id s b) (hp : prepare s y b = .ok b)
    (hb : y.body s b = .done (onCtx s.e s.c g b)) (hg : ∀ x, rest (g x) = rest x) (hs : ∀ x, (g x).state = x.state) (hpc : ∀ x, (g x).pc = x.pc) :
    Leaves s b (g (s.ctx b)).data (g (s.ctx b)).ret (g (s.ctx b)).ps (run (syllable id y e) st) := by
  have ok := atSyllable_site h.1.1
  have he : s.e < 64 := by rw [ok.eng]; exact ok.lt
  have e1 := ctx_onCtx (b := b) (g := g) he h.1.2.ctx
  have := leaves_of_access h hp hb (kept_onCtx hg hs) h.1.2.still (by rw [e1, hpc])
  rw [e1] at this
  exact this

/-- A syllable that only works on its own stacks and flags: what it leaves, once every check passes. -/
theorem leaves_plain {st : State} {e id : Nat} {y : Syl} {l r : List SCell} {p : BitVec 14} (h : Meets st e id s b)
    (hf : y.float = false) (hk : y.kernel = false) (hb : y.bad s b = none)
    (hp : biteIn (s.ctx b).data y.poi = none) (hq : biteIn (s.ctx b).ret y.rpoi = none)
    (hd : y.din ≤ (s.ctx b).data.length) (hr : y.rin ≤ (s.ctx b).ret.length) (hc : y.chk s b = .ok b)
    (gd : (s.ctx b).data.length + y.dout - y.din ≤ capData s.c) (gr : (s.ctx b).ret.length + y.rout - y.rin ≤ capRet s.c)
    (hB : y.body s b = .done d) (hd : s.e < 64 → Kept s b d ∧ (s.ctx d).pc = (s.ctx b).pc ∧ (s.ctx d).data = l ∧
      (s.ctx d).ret = r ∧ (s.ctx d).ps = p) :
    Leaves s b l r p (run (syllable id y e) st) := by
  have ok := atSyllable_site h.1.1
  obtain ⟨h1, h2, rfl, rfl, rfl⟩ := hd (by rw [ok.eng]; exact ok.lt)
  exact leaves_of_access h (prepare_plain h.1.2 hf hk hb hp hq ‹_› hr hc gd gr) hB h1 h.1.2.still h2

theorem putData_kept (n : Nat) (l : List SCell) (b : Blk) : Kept s b (putData s n l b) := kept_onCtx (fun _ => .refl _) (fun _ => .refl _)
theorem putRet_kept (n : Nat) (l : List SCell) (b : Blk) : Kept s b (putRet s n l b) := kept_onCtx (fun _ => .refl _) (fun _ => .refl _)

theorem ctx_putData (he : s.e < 64) (hc : s.c < 5) (n : Nat) (l : List SCell) (b : Blk) :
    s.ctx (putData s n l b) = { s.ctx b with data := l ++ (s.ctx b).data.drop n } := ctx_onCtx he hc
theorem ctx_putRet (he : s.e < 64) (hc : s.c < 5) (n : Nat) (l : List SCell) (b : Blk) :
    s.ctx (putRet s n l b) = { s.ctx b with ret := l ++ (s.ctx b).ret.drop n } := ctx_onCtx he hc

/-- A syllable that replaces the n top cells of the data stack by others, and does no more. -/
theorem leaves_putData {st : State} {e id n : Nat} {y : Syl} {t l o : List SCell} (h : Meets st e id s b)
    (hl : (s.ctx b).data = t ++ l) (ht : t.length = n)
    (hf : y.float = false) (hk : y.kernel = false) (hb : y.bad s b = none)
    (hp : biteIn (s.ctx b).data y.poi = none) (hq : y.rpoi = []) (hi : y.din = n) (hr : y.rin = 0) (hro : y.rout = 0)
    (hc : y.chk s b = .ok b) (gd : l.length + y.dout ≤ capData s.c) (hB : y.body s b = .done (putData s n o b)) :
    LeavesData s b (o ++ l) (run (syllable id y e) st) := by
  refine leaves_plain h hf hk hb hp (by rw [hq]; rfl) ?_ ?_ hc ?_ ?_ hB ?_
  · rw [hl, hi, List.length_append]; omega
  · rw [hr]; exact Nat.zero_le _
  · rw [hl, hi, List.length_append]; omega
  · rw [hr, hro]; have := h.1.2.ret; omega
  · intro he
    rw [ctx_putData he h.1.2.ctx]
    exact ⟨putData_kept _ _ _, rfl, by simp [hl, ← ht], rfl, rfl⟩

end Sys2Proof.Machine
end

