-- ==== Sys2Proof/Laws/Access.lean ====
section
/-! SUPPORT. What buffering a store does besides: the data-watch units see it, and nothing else of the running context moves. -/

namespace Sys2Proof.Machine

variable {s : Site} {b c d : Blk}

theorem dwAct_fetched (k : Nat) (w : Nat × BCell) (b : Blk) : Fetched b (dwAct s k w b) := by
  unfold dwAct
  dsimp only
  generalize ha : fld (dwReg b s.field k 4) 8 2 = act
  have h1 : Fetched b (setReg (aF s.field 0x261) (lo14 (BitVec.ofNat 28 w.1)) (setReg (aF s.field 0x262) (hi14 (BitVec.ofNat 28 w.1))
      (setReg (aF s.field 0x263) w.2.v (orReg (aF s.field 0x260) (1 <<< k) b)))) :=
    (((fetched_setReg _ _ b).trans (fetched_setReg _ _ _)).trans (fetched_setReg _ _ _)).trans (fetched_setReg _ _ _)
  generalize (setReg (aF s.field 0x261) (lo14 (BitVec.ofNat 28 w.1)) (setReg (aF s.field 0x262) (hi14 (BitVec.ofNat 28 w.1))
      (setReg (aF s.field 0x263) w.2.v (orReg (aF s.field 0x260) (1 <<< k) b)))) = c at h1 ⊢
  have h2 : Fetched b (if act = 0 ∨ act = 2 then onEng s.e (fun x => { x with haltReq := some (x.haltReq.getD 5) }) c else c) := by
    split
    · exact h1.trans (fetched_onEng (fun _ => .refl _) (fun _ => .refl _))
    · exact h1
  generalize (if act = 0 ∨ act = 2 then onEng s.e (fun x => { x with haltReq := some (x.haltReq.getD 5) }) c else c) = c2 at h2 ⊢
  have h3 : Fetched b (if act ≠ 0 then traceField s.field (fieldPacket c2 2 s.field (locOf s.e) k w.2) c2 else c2) := by
    split
    · exact h2.trans (traceField_fetched _ _ _)
    · exact h2
  split
  · exact h3.trans (raise_calm _ _ _).fetched
  · exact h3

theorem dwPair_fetched (wr stk : Bool) (ws : List (Nat × BCell)) (j : Nat) (b : Blk) : Fetched b (dwPair s wr stk ws j b) := by
  have act : ∀ (k : Nat) (m : Option (Nat × BCell)) (b : Blk), Fetched b (dwFire s k m b) := by
    intro k m b
    cases m with
    | some w => exact dwAct_fetched k w b
    | none => exact .rfl b
  have arm : ∀ (m : Option (Nat × BCell)), Fetched b (dwArm s j m b) := by
    intro m
    unfold dwArm
    split
    · exact fetched_onField (fun _ => .refl _)
    · exact .rfl b
  unfold dwPair
  dsimp only
  split
  · split
    · exact (arm _).trans (act _ _ _)
    · exact arm _
  · split
    · split
      · exact act _ _ _
      · exact .rfl b
    · exact (act _ _ _).trans (act _ _ _)

/-- The data-watch units see an access. -/
theorem watch_fetched (wr stk : Bool) (ws : List (Nat × BCell)) (b : Blk) : Fetched b (watch s wr stk ws b) := by
  unfold watch
  exact (dwPair_fetched wr stk ws 0 b).trans (dwPair_fetched wr stk ws 1 _)

/-- What buffering a store leaves of the engine's running context, with no locked sequence open. -/
structure Buffers (s : Site) (b c : Blk) : Prop where
  ctx : ∀ i k, still (ctxOf c i k) = still (ctxOf b i k)
  run : (engOf c s.e).run = (engOf b s.e).run
  lock : (engOf c s.e).locks = (engOf b s.e).locks
  ctxq : (engOf c s.e).ctxq = (engOf b s.e).ctxq

theorem Buffers.trans (h : Buffers s b c) (k : Buffers s c d) : Buffers s b d :=
  ⟨fun i j => (k.ctx i j).trans (h.ctx i j), k.run.trans h.run, k.lock.trans h.lock, k.ctxq.trans h.ctxq⟩

theorem Fetched.buffers (h : Fetched b c) : Buffers s b c :=
  ⟨fun i k => (h.ctxs i k).still, run_deep (h.engs _), congrArg (fun z => z.2.2.2.2.2.2.2.1) (h.engs s.e), ctxq_deep (h.engs s.e)⟩

theorem Buffers.undisturbed (hq : (engOf b s.e).ctxq = []) (h : Buffers s b c) : Undisturbed s b c :=
  ⟨h.run, by unfold lockOf; rw [h.lock], congrArg (fun y => y.pc) (h.ctx s.e s.c), h.ctxq.trans hq⟩

theorem putStore_buffers (hl : lockOf b s.e s.c = none) (ws : List (Nat × BCell)) : Buffers s b (putStore s ws b) := by
  unfold putStore lockStore
  rw [hl]
  dsimp only
  split
  · exact ⟨fun _ _ => .refl _, .refl _, .refl _, .refl _⟩
  · refine ⟨fun i k => ?_, ?_, ?_, ?_⟩
    · rw [ctxOf_onEng]; split <;> rfl
    · rw [engOf_onEng]; split <;> rfl
    · rw [engOf_onEng]; split <;> rfl
    · rw [engOf_onEng]; split <;> rfl

theorem storeCell_buffers (hl : lockOf b s.e s.c = none) (stk : Bool) (a : BitVec 28) (v : SCell) :
    Buffers s b (storeCell s stk a v b) := by
  unfold storeCell
  exact (putStore_buffers hl _).trans (watch_fetched _ _ _ _).buffers

theorem storeTwo_buffers (hl : lockOf b s.e s.c = none) (a : BitVec 28) (x y : SCell) : Buffers s b (storeTwo s a x y b) := by
  unfold storeTwo
  dsimp only
  split
  · exact ((putStore_buffers hl _).trans (watch_fetched _ _ _ _).buffers).trans (watch_fetched _ _ _ _).buffers
  · have h1 := storeCell_buffers hl false a x
    have h2 : lockOf (storeCell s false a x b) s.e s.c = none := by unfold lockOf; rw [h1.lock]; exact hl
    exact h1.trans (storeCell_buffers h2 _ _ _)

theorem payAccess_calm (he : s.e < 64) (l : List Nat) (b : Blk) : Calm b (payAccess s l b) :=
  each_calm (fun k b => pay_calm he k b) _ b

/-- One commit of a block operation, with no locked sequence left open and no write of a context register waiting. -/
theorem stays_of_part {st : State} {e id : Nat} {y : Syl} {b0 : Blk} (h : Poised st e id s b) (hp : prepare s y b = .ok c)
    (hb : y.body s c = .part d) (hk : Around s b0 d) (hr : (engOf d s.e).run = (engOf b s.e).run)
    (hq : (engOf d s.e).ctxq = []) (hl : lockOf d s.e s.c = none) : Stays s b0 (run (syllable id y e) st) := by
  obtain ⟨ho, hx⟩ := syllable_at h.1 y
  have ok := atSyllable_site h.1
  have he : s.e < 64 := by rw [ok.eng]; exact ok.lt
  rw [hp, Chk.then, hb] at hx
  refine ⟨st.put (keepAuth (syllable id y e) st.blk), by unfold run; rw [ho]; rfl, ?_⟩
  have hl' : lockStored s d = d := by unfold lockStored; rw [hl]
  simp only [finish, hl'] at hx
  have h0 : Around s d (onEng s.e (fun x => { x with pairB := false }) (spent s d)) :=
    (spent_around he hq).trans (around_onEng (fun _ => .refl _) (fun _ => .refl _))
  have hd := (run_deep (h0.engs s.e)).trans (hr.trans ok.run)
  generalize onEng s.e (fun x => { x with pairB := false }) (spent s d) = x at h0 hd hx
  have h2 := (hk.trans h0).trans (endStep_around (by rw [hd]; exact fun h => by cases h))
  unfold keepAuth State.put
  rw [hx]
  exact ⟨h2.own, h2.words, h2.regs, h2.mine, h2.state, h2.ctxs, h2.engs, h2.fields, h2.links, h2.tb, h2.latch, h2.stw, h2.host, h2.tap,
    h2.mc, h2.gov⟩

end Sys2Proof.Machine
end

