-- ==== Sys2Proof/Laws/Commands.lean ====
section
/-! SUPPORT. How the effect of a command becomes what is claimed of it. -/

open Sys2Proof Sys2Proof.Machine

namespace Sys2Proof.Laws

variable {st : State} {c : Instr} {f : Blk → Blk} {d : Blk}

/-- A command whose meaning is `run` leaves the block that its effect gives, where PORESET_N is released. -/
theorem becomes_of_run (h : exec c st = run f st) (ho : st.blk.md.off = false) (hd : f st.blk = d) : Becomes st c d := by
  unfold Becomes
  rw [h, run, ho]
  simp [keepAuth, hd]

/-- A command of the pins or of the debug island does so always. -/
theorem becomes_of_runPin (h : exec c st = runPin f st) (hd : f st.blk = d) : Becomes st c d := by
  unfold Becomes
  rw [h, runPin, keepAuth, hd]

/-- What holds of the block left, whatever its authentication state, is reached. -/
theorem Becomes.reaches {p : Blk → Prop} (h : Becomes st c d) (hp : p { d with auth := st.blk.auth }) : Reaches st c p :=
  ⟨_, h, rfl, hp⟩

/-- The block left where the effect keeps the authentication state of itself. -/
theorem Becomes.of_auth (h : Becomes st c d) (ha : d.auth = st.blk.auth) : exec c st = .next (st.put d) := by
  rw [h, ← ha]

/-- A command that does nothing. -/
theorem becomes_same (h : exec c st = .next st) : Becomes st c st.blk := h

/-- A step runs the command at the front of the queue. -/
theorem step_front (q : List Instr) (h : st.pending = c :: q) : step st = exec c { st with pending := q } := by
  unfold step
  rw [h]

end Sys2Proof.Laws
end

