-- ==== Sys2Proof/Laws/Memory.lean ====
section
/-! SUPPORT. Memory: every operation on the memory words keeps their one canonical form, and a word reads as it was last put. -/

open Sys2Proof Sys2Proof.Machine

namespace Sys2Proof.Laws

variable {b : Blk}

/-- The word put is the word read, but for bits that a fault holds; every other word is as it was. -/
theorem rawWord_putWord (m : Mem) (w : BitVec 20) (a : Nat) :
    rawWord (putWord m w b) a = if a = memAddr m then w &&& ~~~(stuckMask b m) else rawWord b a := by
  unfold rawWord putWord
  exact kget_kset 0 b.mem (memAddr m) a _

/-- Putting a word keeps the form. -/
theorem wf_putWord (m : Mem) (w : BitVec 20) (h : Memory.wf b.mem = true) : Memory.wf (putWord m w b).mem = true :=
  canonical_kset (d := fun _ => 0) (memAddr m) _ h

/-- The same, from a block with that memory. -/
theorem wf_putWord_of {d : Blk} (m : Mem) (w : BitVec 20) (h : Memory.wf b.mem = true) (e : d.mem = b.mem) :
    Memory.wf (putWord m w d).mem = true :=
  wf_putWord m w (by rw [e]; exact h)

/-- Clearing a range keeps the form. -/
theorem wf_kclear {mem : KMap (BitVec 20)} (lo hi : Nat) (h : Memory.wf mem = true) : Memory.wf (kclear mem lo hi) = true := by
  unfold kclear
  unfold Memory.wf at h ⊢
  exact canonical_filter _ h

/-- A store into field memory keeps the form, whether the shadow takes it, the flip mask acts or neither. -/
theorem wf_storeField (f off : Nat) (c : BCell) (h : Memory.wf b.mem = true) : Memory.wf (storeField f off c b).mem = true := by
  unfold storeField
  dsimp only
  generalize hd : onField f _ (cancelBack f off b) = d
  have e : d.mem = b.mem := by rw [← hd]; rfl
  split
  · show Memory.wf d.mem = true
    rw [e]; exact h
  · split
    · refine wf_putWord_of (b := b) _ _ h ?_
      generalize aF f 0x1C2 = x
      generalize aF f 0x1C3 = y
      exact e
    · exact wf_putWord_of _ _ h e

/-- A store into any memory keeps the form. -/
theorem wf_storeMem (m : Mem) (c : BCell) (h : Memory.wf b.mem = true) : Memory.wf (storeMem m c b).mem = true := by
  unfold storeMem
  split
  · exact h
  · split
    · exact wf_storeField _ _ c h
    all_goals exact wf_putWord _ _ h

/-- The write-back of a corrected cell keeps the form. -/
theorem wf_writeBack (m : Mem) (d : BitVec 14) (h : Memory.wf b.mem = true) : Memory.wf (writeBack m d b).mem = true := by
  unfold writeBack
  split
  · split
    · exact h
    · exact wf_putWord _ _ h
  · exact h

/-- After reset memory has the form. -/
theorem wf_reset : Memory.wf State.reset.blk.mem = true := rfl

/-- Cancelling a write-back leaves the sinter and the held bits. -/
theorem cancelBack_field (f off g : Nat) : (fieldOf (cancelBack f off b) g).sinter = (fieldOf b g).sinter ∧
    (fieldOf (cancelBack f off b) g).bad = (fieldOf b g).bad := by
  unfold cancelBack
  rw [fieldOf_onField]
  split
  · split <;> exact ⟨rfl, rfl⟩
  · exact ⟨rfl, rfl⟩

/-- Bits held depend on the field's faults alone. -/
theorem stuckMask_congr {d : Blk} (f off : Nat) (h : (fieldOf d f).bad = (fieldOf b f).bad) :
    stuckMask d (.fieldMem f off) = stuckMask b (.fieldMem f off) := by
  show maskIn _ off = maskIn _ off
  rw [h]

/-- What a store leaves at its word, where no shadow and no flip mask acts and no bit is held. -/
theorem rawWord_storeField (f off : Nat) (c : BCell) (hs : (fieldOf b f).sinter.phase = 0) (hm : bit (reg b (aF f 0x1C3)) 13 = false)
    (hk : stuckMask b (.fieldMem f off) = 0) (a : Nat) :
    rawWord (storeField f off c b) a = if a = f * 0x10000 + off then wordOf c else rawWord b a := by
  unfold storeField
  dsimp only
  generalize hd : onField f _ (cancelBack f off b) = d
  have e : fieldOf d f = fieldOf (cancelBack f off b) f := by
    rw [← hd, fieldOf_onField]
    split
    · rw [if_neg]
      rw [(cancelBack_field f off f).1, hs]
      simp
    · rfl
  have h1 : shadowIdx (fieldOf d f) off = none := by
    unfold shadowIdx
    rw [e, (cancelBack_field f off f).1, hs]
    simp
  have h2 : flipMask d f = none := by
    have : reg d (aF f 0x1C3) = reg b (aF f 0x1C3) := by rw [← hd]; rfl
    simp [flipMask, this, hm]
  have h3 : stuckMask d (.fieldMem f off) = 0 := by
    rw [stuckMask_congr (b := b) f off (by rw [e]; exact (cancelBack_field f off f).2), hk]
  have h4 : ∀ q, rawWord d q = rawWord b q := by intro q; rw [← hd]; rfl
  rw [h1, h2]
  dsimp only
  rw [rawWord_putWord, h3, h4]
  show (if a = f * 0x10000 + off then wordOf c &&& ~~~0 else rawWord b a) = _
  rw [show (~~~0 : BitVec 20) = BitVec.allOnes 20 by decide, BitVec.and_allOnes]

end Sys2Proof.Laws
end

