-- ==== Sys2Proof/Laws/Outcomes.lean ====
section
/-! SUPPORT. The other outcomes of a syllable: a transfer of control, and a syllable that sets its context's place itself. -/

namespace Sys2Proof.Machine

variable {s : Site} {b b0 c d : Blk}

/-- Where the context stands after a transfer. -/
theorem goTo_spec (hc : s.c < 5) (he : s.e < 64) (a : BitVec 28) (b : Blk) :
    Kept s b (goTo s a false b) ∧ s.ctx (goTo s a false b) = { s.ctx b with pc := s.addr a, sylb := false } := by
  have k : ∀ z : Blk, Around s z (onEng s.e (fun x => { x with pf := [], pairB := false }) z) :=
    fun z => around_onEng (fun _ => .refl _) (fun _ => .refl _)
  have h : Kept s b (onCtx s.e s.c (fun y => { y with pc := s.addr a, sylb := false }) b) :=
    kept_onCtx (fun _ => .refl _) (fun _ => .refl _)
  unfold goTo
  refine ⟨h.trans (k _).toKept, ?_⟩
  unfold Site.ctx
  rw [ctxOf_onEng, if_pos ⟨.refl _, he⟩]
  show ctxOf (onCtx s.e s.c _ b) s.e s.c = _
  rw [ctxOf_onCtx, if_pos ⟨⟨.refl _, he⟩, .refl _, hc⟩]

/-- What a transfer does besides the syllable's own work, with no locked sequence open. -/
theorem finish_jump (he : s.e < 64) (hc : s.c < 5) (hq : (engOf b s.e).ctxq = []) (hl : lockOf b s.e s.c = none) (hr : (engOf b s.e).run ≠ none) (a : BitVec 28) :
    Kept s b (finish s (.jump a b)) ∧ 
      Woken { s.ctx b with pc := s.addr a, sylb := false } (s.ctx (finish s (.jump a b))) := by
  have h1 := committed_around he hq hl true
  simp only [finish]
  generalize committed s true b = x at h1 ⊢
  obtain ⟨g1, g2⟩ := goTo_spec hc he a x
  have k := h1.toKept.trans g1
  generalize goTo s a false x = y at g1 g2 k ⊢
  have e1 := endStep_around (s := s) (b := y) (by rw [run_deep (k.engs s.e)]; exact hr)
  refine ⟨k.trans e1.toKept, ?_⟩
  have h3 : Woken { s.ctx b with pc := s.addr a, sylb := false } (s.ctx y) := by
    rw [g2]
    rcases h1.own with h | ⟨h, h'⟩
    · exact .inl (by unfold Site.ctx; rw [h])
    · exact .inr ⟨h, by unfold Site.ctx; rw [h']⟩
  exact h3.trans e1.own

/-- A syllable about to execute that passes its checks and transfers control: what the next state holds. -/
theorem jumps_of_jump {st : State} {e id : Nat} {y : Syl} {a : BitVec 28} (h : Meets st e id s b) (hp : prepare s y b = .ok c)
    (hb : y.body s c = .jump a d) (hk : Kept s b d) (hps : (s.ctx d).ps = (s.ctx b).ps) :
    Jumps s b (s.ctx d).data (s.ctx d).ret a (run (syllable id y e) st) := by
  obtain ⟨ho, hx⟩ := syllable_at h.1.1 y
  have ok := atSyllable_site h.1.1
  have he : s.e < 64 := by rw [ok.eng]; exact ok.lt
  rw [hp, Chk.then, hb] at hx
  refine ⟨st.put (keepAuth (syllable id y e) st.blk), by unfold run; rw [ho]; rfl, ?_⟩
  obtain ⟨f1, f2⟩ := finish_jump he h.1.2.ctx ((ctxq_deep (hk.engs _)).trans h.1.2.ctxq) ((lockOf_deep (hk.engs _)).trans h.2)
    (by rw [run_deep (hk.engs s.e), ok.run]; exact fun h => by cases h) a
  have f := hk.trans f1
  have o := f2.still
  unfold keepAuth State.put
  rw [hx]
  generalize finish s (.jump a d) = z at f f2 o
  exact ⟨congrArg (fun y => y.data) o, congrArg (fun y => y.ret) o, (congrArg (fun y => y.ps) o).trans hps, congrArg (fun y => y.pc) o,
    congrArg (fun y => y.sylb) o, f.words, f.regs, f.mine, f.state, f.ctxs, f.engs, f.fields, f.links, f.tb, f.latch, f.stw, f.host,
    f.tap, f.mc, f.gov⟩

/-- The end of a debug step that is not under way. -/
theorem endStep_idle {e : Nat} (h : (engOf b e).stepping = false) : endStep e b = b := by
  unfold endStep
  rw [h]
  rfl

/-- Whether a debug step is under way is as before the commit. -/
theorem committed_stepping (he : s.e < 64) (hq : (engOf b s.e).ctxq = []) (hl : lockOf b s.e s.c = none) (taken : Bool) :
    (engOf (committed s taken b) s.e).stepping = (engOf b s.e).stepping := by
  have calm : ∀ {x y : Blk}, Calm x y → (engOf y s.e).stepping = (engOf x s.e).stepping :=
    fun h => (congrArg (fun z => z.stepping) (h.eng s.e) :)
  have eng : ∀ (g : Engine → Engine) (x : Blk), (∀ z, (g z).stepping = z.stepping) →
      (engOf (onEng s.e g x) s.e).stepping = (engOf x s.e).stepping := by
    intro g x h; rw [engOf_onEng]; split <;> first | exact h _ | rfl
  have o : (engOf (payOwed s b) s.e).stepping = (engOf b s.e).stepping := by
    unfold payOwed
    split
    · rfl
    · refine (eng _ _ ?_).trans (calm (each_calm (fun k b => pay_calm he k b) _ b))
      exact fun _ => .refl _
  have p : (engOf (payBase s taken (payOwed s b)) s.e).stepping = (engOf b s.e).stepping := by
    unfold payBase
    split
    · exact (calm (pay_calm he _ _)).trans o
    · exact o
  have a0 := payOwed_around he b
  have h1 : Around s b (payBase s taken (payOwed s b)) := by
    unfold payBase
    split
    · exact a0.trans ((pay_calm he _ _).around s)
    · exact a0
  generalize hxx : payBase s taken (payOwed s b) = x at p h1
  have hx : (engOf x s.e).ctxq = [] := (ctxq_deep (h1.engs s.e)).trans hq
  have g : ∀ z : Blk, (engOf z s.e).ctxq = [] → (engOf (clearGot s.e z) s.e).stepping = (engOf z s.e).stepping := by
    intro z hz
    unfold clearGot
    split
    · rfl
    · have hw : (engOf (onEng s.e (fun x => { x with hmNeed := 0, hmGot := [] }) z) s.e).ctxq = [] := by
        rw [engOf_onEng]; split <;> exact hz
      rw [← eng (fun x => { x with hmNeed := 0, hmGot := [] }) z (fun _ => .refl _)]
      generalize onEng s.e (fun x => { x with hmNeed := 0, hmGot := [] }) z = w at hw ⊢
      unfold flushCtx
      rw [hw]
      split
      · exact eng _ _ (fun _ => .refl _)
      · rfl
  have r : (engOf (ranNow s x) s.e).stepping = (engOf b s.e).stepping := by
    unfold ranNow spent
    have h0 := eng (fun y => { y with last := upd (fun _ => 0) y.last s.c }) x (fun _ => .refl _)
    have hq0 : (engOf (onEng s.e (fun y => { y with last := upd (fun _ => 0) y.last s.c }) x) s.e).ctxq = [] := by
      rw [engOf_onEng]; split <;> exact hx
    generalize onEng s.e (fun y => { y with last := upd (fun _ => 0) y.last s.c }) x = w at h0 hq0 ⊢
    have h3 := calm (starveCount_calm (f := s.field) (fldOf_lt he) (cycleEnd s.field (clearGot s.e w)))
    have h4 := h3.trans ((calm (cycleEnd_calm s.field (clearGot s.e w))).trans ((g w hq0).trans (h0.trans p)))
    dsimp only
    split
    · refine (eng _ _ ?_).trans h4
      exact fun _ => .refl _
    · exact h4
  have h2 := (h1.trans (ranNow_around he hx)).trans (dwCount_around _)
  have h3 := (lockOf_deep (h2.engs s.e)).trans hl
  unfold committed lockCount
  rw [hxx, h3]
  exact r

/-- What a syllable that sets its context's place itself does besides, with no locked sequence left open, a context running or no
debug step under way. -/
theorem finish_leave (he : s.e < 64) (hq : (engOf b s.e).ctxq = []) (hl : lockOf b s.e s.c = none) (hr : (engOf b s.e).run ≠ none ∨ (engOf b s.e).stepping = false) :
    Around s b (finish s (.leave b)) := by
  have h1 := committed_around he hq hl false
  have hst : (engOf (committed s false b) s.e).stepping = (engOf b s.e).stepping :=
    committed_stepping he hq hl false
  simp only [finish]
  generalize committed s false b = x at h1 hst ⊢
  have k : Around s x (onEng s.e (fun x => { x with pairB := false }) x) := around_onEng (fun _ => .refl _) (fun _ => .refl _)
  have h2 := h1.trans k
  have hst2 : (engOf (onEng s.e (fun x => { x with pairB := false }) x) s.e).stepping = (engOf b s.e).stepping := by
    rw [← hst, engOf_onEng]; split <;> rfl
  generalize onEng s.e (fun x => { x with pairB := false }) x = y at h2 hst2 ⊢
  rcases hr with hr | hr
  · exact h2.trans (endStep_around (by rw [run_deep (h2.engs s.e)]; exact hr))
  · rw [endStep_idle (by rw [hst2]; exact hr)]; exact h2

/-- A syllable that sets its context's place itself: what it left of block `b0` is left. -/
theorem stays_of_leave {st : State} {e id : Nat} {y : Syl} (h : Poised st e id s b) (hp : prepare s y b = .ok c)
    (hb : y.body s c = .leave d) (hk : Around s b0 d) (hq : (engOf d s.e).ctxq = []) (hl : lockOf d s.e s.c = none)
    (hr : (engOf d s.e).run ≠ none ∨ (engOf d s.e).stepping = false) :
    Stays s b0 (run (syllable id y e) st) := by
  obtain ⟨ho, hx⟩ := syllable_at h.1 y
  have ok := atSyllable_site h.1
  have he : s.e < 64 := by rw [ok.eng]; exact ok.lt
  rw [hp, Chk.then, hb] at hx
  refine ⟨st.put (keepAuth (syllable id y e) st.blk), by unfold run; rw [ho]; rfl, ?_⟩
  have f := hk.trans (finish_leave he hq hl hr)
  unfold keepAuth State.put
  rw [hx]
  generalize finish s (.leave d) = z at f
  exact ⟨f.own, f.words, f.regs, f.mine, f.state, f.ctxs, f.engs, f.fields, f.links, f.tb, f.latch, f.stw, f.host, f.tap,
    f.mc, f.gov⟩

/-- The checks of a float syllable whose operands are there. -/
theorem prepare_float {y : Syl} (h : Settled s b) (hf : y.float = true) (h4 : s.c ≠ 4) (hk : y.kernel = false) (hb : y.bad s b = none)
    (ha : psFPA (s.ctx b) = true) (hn : y.fin ≤ (engOf b s.e).fst.length) (hm : (engOf b s.e).fst.length - y.fin + y.fout ≤ 4)
    (hp : biteIn (s.ctx b).data y.poi = none) (hq : biteIn (s.ctx b).ret y.rpoi = none)
    (hd : y.din ≤ (s.ctx b).data.length) (hr : y.rin ≤ (s.ctx b).ret.length) (hc : y.chk s b = .ok b)
    (gd : (s.ctx b).data.length + y.dout - y.din ≤ capData s.c) (gr : (s.ctx b).ret.length + y.rout - y.rin ≤ capRet s.c) :
    prepare s y b = .ok b := by
  have h2 : chkFloat s y b = .ok b := by
    unfold chkFloat
    rw [if_neg (by simp [hf])]
    dsimp only
    rw [if_neg (by simp [ha]), if_neg (by omega)]
  refine prepare_ok h.lops ?_ h2 hd hr hc gd h.dgrp gr h.rgrp h2
  unfold chkOperands chkBites
  simp [h4, hk, hb, hp, hq]

end Sys2Proof.Machine
end

