-- ==== Sys2Proof/WellFormed.lean ====
section
/-! DEFINITION. Which commands are well formed on a block of `nf` fields (R3): every unit that an operand names is one the
configuration has, and what an operand brings has the size of its port. -/

namespace Sys2Proof.WellFormed

/-- Field, engine and link numbers of a block with `nf` fields (R3). -/
def okF (nf f : Nat) : Bool := decide (f < nf)
def okE (nf e : Nat) : Bool := decide (e < 8 * nf)
def okL (nf l : Nat) : Bool := decide (l < 12 * nf)

/-- A number below a bound: a timer of a field, a capture set, a mask register, a stimulus port, a CAL value. -/
def okLt (n k : Nat) : Bool := decide (k < n)

/-- A deadline timer of an engine: DEADLINE1 to DEADLINE3 (R381). -/
def okDl (n : Nat) : Bool := decide (1 ≤ n) && decide (n ≤ 3)

/-- A 28-bit block address (R557). -/
def okA (a : Nat) : Bool := decide (a < 2 ^ 28)

/-- A master of the block: an engine it has, or one of the four others. -/
def okM (nf : Nat) : Master → Bool
  | .engine e => okE nf e
  | .host => true
  | .steward => true
  | .linkDma => true
  | .debug => true

/-- A frame starts with a word of KIND 1, and a trailer is a word of KIND 3 (R88, R92). -/
def okW (w : WireFrame) : Bool :=
  decide (w.hdr.extractLsb' 60 4 = 1) && (match w.trl with
    | some t => decide (t.extractLsb' 60 4 = 3)
    | none => true)

/-- One temperature code for each field at least (R377): eight ports, of which a block uses its own. -/
def okTemps (nf : Nat) (t : List (BitVec 10)) : Bool := decide (nf ≤ 8) && decide (t.length = 8)

/-- The key's 19 fuse words, addresses 64 to 82 (R519). -/
def okKey (k : List (BitVec 15)) : Bool := decide (k.length = 19)

/-- A master-port response carries one or two cells (R512). -/
def okCells (c : List BCell) : Bool := decide (c.length ≤ 2)

/-- The fuse record's 45 cells, addresses 0 to 44 (R492, R519). -/
def okRecord (r : List BCell) : Bool := decide (r.length = 45)

/-- The command is well formed on a block of `nf` fields. -/
def wellFormed (nf : Nat) : Instr → Bool
  | .poresetAssert => true
  | .poresetRelease => true
  | .wresetN => true
  | .warmReset _ => true
  | .warmResetComplete => true
  | .coldReset _ => true
  | .memoryClearComplete => true
  | .fuseLoadComplete _ record => okRecord record
  | .fuseTimeout _ => true
  | .coldComplete => true
  | .killN _ => true
  | .dporN => true
  | .pswAckRise f => okF nf f
  | .pswAckFall f => okF nf f
  | .slotBoundary _ => true
  | .marker => true
  | .nobclkSet => true
  | .capture k _ => okLt 8 k
  | .fieldSlotBoundary f => okF nf f
  | .dispatch f => okF nf f
  | .overrun f => okF nf f
  | .fenTakeEffect f => okF nf f
  | .fenClearTakeEffect f => okF nf f
  | .hitFrame l w => okL nf l && okW w
  | .runFrame l w => okL nf l && okW w
  | .runcFrame l w => okL nf l && okW w
  | .mapSample f rel => okF nf f && okLt 5 rel
  | .borderCopy f => okF nf f
  | .primFrame l w => okL nf l && okW w
  | .decisionFrame l w => okL nf l && okW w
  | .doorbellFrame l w => okL nf l && okW w
  | .cmdFrame l w => okL nf l && okW w
  | .replyFrame l w => okL nf l && okW w
  | .statusFrame l w => okL nf l && okW w
  | .timeFrame l w => okL nf l && okW w
  | .traceFrame l w => okL nf l && okW w
  | .idleFrame l w => okL nf l && okW w
  | .trainingWord l _ => okL nf l
  | .linkSilenceDown l => okL nf l
  | .frameTransmit l => okL nf l
  | .creditIdleSend l => okL nf l
  | .statusSend => true
  | .timerTick f k => okF nf f && okLt 4 k
  | .timerFire f k => okF nf f && okLt 4 k
  | .gstartWrite m _ => okM nf m
  | .gstartRelease => true
  | .geyserAgePending f src => okF nf f && okLt 512 src
  | .deadlineExpire e n => okE nf e && okDl n
  | .quantumExpire e => okE nf e
  | .govTick temps _ => okTemps nf temps
  | .kWindowEnd => true
  | .levelStep => true
  | .bucketLeak f => okF nf f
  | .lockoutExpire => true
  | .sleepCountSaturate => true
  | .hmResponse cells _ => okCells cells
  | .hmTimeout => true
  | .hostTargetRead a _ => okA a
  | .hostTargetWrite a _ _ _ => okA a
  | .registerWrite m a _ => okM nf m && okA a
  | .counterRead m a => okM nf m && okA a
  | .wideLoRead m a => okM nf m && okA a
  | .capslotRead m k => okM nf m && okLt 8 k
  | .tbSpsWrite m _ => okM nf m
  | .spsTakeEffect => true
  | .tbCtlSwld m => okM nf m
  | .sweepLoad => true
  | .tbCtlRtclr m => okM nf m
  | .runtimeClear => true
  | .tmrEnable m f k _ => okM nf m && okF nf f && okLt 4 k
  | .tmrPeriodWrite m f k _ => okM nf m && okF nf f && okLt 4 k
  | .mapalignWrite m f _ => okM nf m && okF nf f
  | .mapmaskWrite m f j _ => okM nf m && okF nf f && okLt 32 j
  | .matringWrite m f _ => okM nf m && okF nf f
  | .fcfgWrite m f _ => okM nf m && okF nf f
  | .rotWrite m f _ => okM nf m && okF nf f
  | .decisionWrite m f _ => okM nf m && okF nf f
  | .primqWrite m f _ => okM nf m && okF nf f
  | .doorbellWrite m f _ => okM nf m && okF nf f
  | .evclaimRead m f k => okM nf m && okF nf f && okLt 8 k
  | .evdoneWrite m f k _ => okM nf m && okF nf f && okLt 8 k
  | .sourceTableWrite m a _ => okM nf m && okA a
  | .eventEntry e => okE nf e
  | .storeDrain e => okE nf e
  | .longOpComplete e => okE nf e
  | .eccWriteback f => okF nf f
  | .sinterStep f => okF nf f
  | .sinterMaintRead f a => okF nf f && okA a
  | .eccfliphiArm m f _ => okM nf m && okF nf f
  | .ectlRunSet m e _ => okM nf m && okE nf e
  | .ectlRunClear m e _ => okM nf m && okE nf e
  | .ctxdataRead m e => okM nf m && okE nf e
  | .ctxdataWrite m e _ => okM nf m && okE nf e
  | .pairJoin m f _ => okM nf m && okF nf f
  | .pairSeparate m f _ => okM nf m && okF nf f
  | .deadlineWrite m e n _ => okM nf m && okE nf e && okDl n
  | .ledctlFill m f => okM nf m && okF nf f
  | .ledctlEclr m f => okM nf m && okF nf f
  | .calWrite m i _ => okM nf m && okLt 42 i
  | .fabIdWrite m _ _ => okM nf m
  | .routeEntryWrite m a _ => okM nf m && okA a
  | .linkEnable m l _ => okM nf m && okL nf l
  | .linkDisable m l _ => okM nf m && okL nf l
  | .retrain m l _ => okM nf m && okL nf l
  | .cmdinWrite m _ => okM nf m
  | .cmdoutRead m => okM nf m
  | .cmdctlInflush m => okM nf m
  | .cmdctlOutflush m => okM nf m
  | .hostbellsetWrite m _ => okM nf m
  | .rstctlWarm m => okM nf m
  | .rstctlCold m => okM nf m
  | .fpwrOn m _ => okM nf m
  | .fpwrOff m _ => okM nf m
  | .modeReqConfig m => okM nf m
  | .modeReqLinkup m => okM nf m
  | .modeReqFreerun m => okM nf m
  | .modeReqAcquire m => okM nf m
  | .modeReqSelftest m => okM nf m
  | .modeReqWatch m => okM nf m
  | .modeReqSafestop m => okM nf m
  | .modeReqWake m => okM nf m
  | .drainEntry => true
  | .drainComplete => true
  | .watchEntryComplete => true
  | .wake _ => true
  | .selftestComplete => true
  | .freezeWrite m _ => okM nf m
  | .holdEntry => true
  | .holdExit => true
  | .haltallHalt m _ => okM nf m
  | .haltallRelease m _ => okM nf m
  | .dbgResetWarm m => okM nf m
  | .dbgResetCold m => okM nf m
  | .dbgctlHalt m e _ => okM nf m && okE nf e
  | .dbgctlRelease m e _ => okM nf m && okE nf e
  | .dbgctlForce m e _ => okM nf m && okE nf e
  | .dbgctlStep m e _ => okM nf m && okE nf e
  | .engineHalt e => okE nf e
  | .stimWrite m f n _ => okM nf m && okF nf f && okLt 32 n
  | .tracePacketSend => true
  | .traceFrameSend => true
  | .pctlLreset m => okM nf m
  | .ploadWrite m _ => okM nf m
  | .pctlInstall m => okM nf m
  | .patchInstallComplete => true
  | .idcodeCapture => true
  | .dstatCapture => true
  | .chalCapture _ _ key => okKey key
  | .respUpdate _ _ => true
  | .accRead a => okA a
  | .accWrite a _ => okA a
  | .accReadNext => true
  | .accWriteNext _ => true
  | .accNop _ => true
  | .accCapture => true
  | .accComplete => true
  | .stewardTakePacket => true
  | .cmdForward => true
  | .ping => true
  | .ident => true
  | .read => true
  | .write => true
  | .fill => true
  | .mode => true
  | .status => true
  | .loadset => true
  | .swapset => true
  | .channelMapSwap f => okF nf f
  | .gainPageSwap f => okF nf f
  | .windowTableSwap f => okF nf f
  | .routeTableSwap => true
  | .safedecSwap f => okF nf f
  | .engineStop => true
  | .engineStart => true
  | .engineCtxrd => true
  | .engineCtxwr => true
  | .route => true
  | .patchLreset => true
  | .patchAppend => true
  | .patchInstall => true
  | .calrd => true
  | .calwr => true
  | .clear => true
  | .restore => true
  | .event => true
  | .counters => true
  | .deferredDone _ => true
  | .deferredTimeout _ => true
  | .nop e => okE nf e
  | .dup e => okE nf e
  | .drop e => okE nf e
  | .swap e => okE nf e
  | .overSyl e => okE nf e
  | .rot e => okE nf e
  | .nip e => okE nf e
  | .tuck e => okE nf e
  | .dup2 e => okE nf e
  | .drop2 e => okE nf e
  | .tor e => okE nf e
  | .fromr e => okE nf e
  | .rfetch e => okE nf e
  | .pick e => okE nf e
  | .depth e => okE nf e
  | .rdrop e => okE nf e
  | .add e => okE nf e
  | .sub e => okE nf e
  | .adc e => okE nf e
  | .sbc e => okE nf e
  | .and e => okE nf e
  | .or e => okE nf e
  | .xor e => okE nf e
  | .not e => okE nf e
  | .neg e => okE nf e
  | .inc e => okE nf e
  | .dec e => okE nf e
  | .shl e => okE nf e
  | .shr e => okE nf e
  | .sar e => okE nf e
  | .rol e => okE nf e
  | .ror e => okE nf e
  | .shl1 e => okE nf e
  | .shr1 e => okE nf e
  | .eq e => okE nf e
  | .lt e => okE nf e
  | .ult e => okE nf e
  | .gt e => okE nf e
  | .zeq e => okE nf e
  | .min e => okE nf e
  | .max e => okE nf e
  | .abs e => okE nf e
  | .satadd e => okE nf e
  | .satsub e => okE nf e
  | .clz e => okE nf e
  | .popc e => okE nf e
  | .mullo e => okE nf e
  | .sext7 e => okE nf e
  | .ld e => okE nf e
  | .st e => okE nf e
  | .ldi e => okE nf e
  | .sti e => okE nf e
  | .ldp e => okE nf e
  | .stp e => okE nf e
  | .ldv e => okE nf e
  | .plusst e => okE nf e
  | .ldc e => okE nf e
  | .stc e => okE nf e
  | .bitset e => okE nf e
  | .bitclr e => okE nf e
  | .xchg e => okE nf e
  | .lock e => okE nf e
  | .cas e => okE nf e
  | .pref e => okE nf e
  | .br e => okE nf e
  | .bz e => okE nf e
  | .bnz e => okE nf e
  | .call e => okE nf e
  | .ret e => okE nf e
  | .jmps e => okE nf e
  | .calls e => okE nf e
  | .loop e => okE nf e
  | .sbr e => okE nf e
  | .sbz e => okE nf e
  | .sbnz e => okE nf e
  | .rete e => okE nf e
  | .trap e => okE nf e
  | .sleep e => okE nf e
  | .yield e => okE nf e
  | .halt e => okE nf e
  | .mul e => okE nf e
  | .mulu e => okE nf e
  | .div e => okE nf e
  | .divu e => okE nf e
  | .dadd e => okE nf e
  | .dsub e => okE nf e
  | .fadd e => okE nf e
  | .fsub e => okE nf e
  | .fmul e => okE nf e
  | .fdiv e => okE nf e
  | .fsqrt e => okE nf e
  | .fcmp e => okE nf e
  | .ftoi e => okE nf e
  | .itof e => okE nf e
  | .fmin e => okE nf e
  | .fmax e => okE nf e
  | .smallLiteral e => okE nf e
  | .lit e => okE nf e
  | .lit2 e => okE nf e
  | .sync e => okE nf e
  | .isync e => okE nf e
  | .mfc e => okE nf e
  | .mtc e => okE nf e
  | .fld e => okE nf e
  | .fst e => okE nf e
  | .fdup e => okE nf e
  | .fdrop e => okE nf e
  | .fswap e => okE nf e
  | .dbgbrk e => okE nf e
  | .stim e => okE nf e
  | .illegal e => okE nf e
  | .ldm e => okE nf e
  | .stm e => okE nf e
  | .movb e => okE nf e
  | .dsadd e => okE nf e
  | .dssub e => okE nf e
  | .evclaim e => okE nf e
  | .evdone e => okE nf e
  | .setview e => okE nf e
  | .getview e => okE nf e
  | .ctxrd e => okE nf e
  | .ctxwr e => okE nf e
  | .setrm e => okE nf e
  | .cycles e => okE nf e
  | .ptest e => okE nf e
  | .pclr e => okE nf e
  | .slotend e => okE nf e
  | .compand e => okE nf e
  | .expand e => okE nf e
  | .crcstep e => okE nf e
  | .bitrev e => okE nf e
  | .parity e => okE nf e
  | .fwiden e => okE nf e
  | .fnarrow e => okE nf e
  | .wordOutsideFrame l _ => okL nf l
  | .badtypeFrame l w => okL nf l && okW w
  | .trainingWordsSent l => okL nf l
  | .idleCycle e => okE nf e
  | .updateIr _ => true

end Sys2Proof.WellFormed
end

