-- ==== Sys2Proof/Tests/Slice0.lean ====
section
/-! SUPPORT. The model's own tests: witnesses that meet the hypotheses of the statements, clause by clause, and checks of single
operations against numbers that the manual works out or that follow from its tables by hand. -/

open Sys2Proof Sys2Proof.Machine

set_option Elab.async false

namespace Sys2Proof.Tests

/-! Blocks to test on. `awake` is in FREERUN with its bring-up over; in `stand` engine 0 stands at one code cell, in context c. -/

def awake : Blk :=
  setReg (aB 0x000) 4 { Blk.reset with
    fields := Fixed.same { Field.cold with clearing := false, bal := 1000 }
    md := { Md.cold with fuseWait := false, clearWait := false, fabClear := false } }

def ctxWith (data ret : List SCell) (ps : BitVec 14) : Ctx :=
  { Ctx.cold with state := 1, views := [0x80, 0x00, 0x00, 0x00], data := data, ret := ret, ps := ps }

def stand (c cell : Nat) (data ret fst : List SCell) (ps : BitVec 14) : Blk :=
  let b := setReg (aE 0 0x00) 0x0901 awake
  let b := onEng 0 (fun x => { x with
    run := some c, fst := fst, ctxs := setAt (fun _ => ctxWith data ret ps) x.ctxs c }) b
  putWord (.codeStore 0 2) (storedWord 0x0456) <| putWord (.codeStore 0 1) (storedWord 0x0123) (putWord (.codeStore 0 0) (storedWord (BitVec.ofNat 14 cell)) b)

/-- The code cell of a syllable with NOP as its partner. -/
def cellOf (id : Nat) : Nat := if id < 128 then id * 128 else 0x72 * 128 + (id - 128)

/-- PS at kernel level; with FPA too. -/
def kern : BitVec 14 := 0x2000
def kernFpa : BitVec 14 := 0x2800

/-- Engine 0 at syllable `id` in C1, with these stacks. -/
def at_ (id : Nat) (data ret : List SCell) : Blk := stand 1 (cellOf id) data ret [] kern
/-- The same with a float stack, and FPA. -/
def atF (id : Nat) (data fst : List SCell) : Blk := stand 1 (cellOf id) data [] fst kernFpa

/-- The pair of engines 0 and 1 at a syllable in C1, its code in the joined store. -/
def twinned (b : Blk) : Blk :=
  setReg (aF 0 2) 1 (onEng 0 (fun x => { x with ctxs := setAt (fun y => { y with pc := 0x80000 }) x.ctxs 1 }) b)

/-- Some words of field memory hold 0. -/
def filled (b : Blk) : Blk := { b with
  mem := [0x10, 0x11, 0x12, 0x1D, 0x20, 0x21].map (fun a => (a, storedWord 0)) ++ b.mem }

def meetsB (b : Blk) (id : Nat) (p : Site → Blk → Bool) : Bool :=
  match atSyllable b 0 id with
  | some (s, b1) =>
    decide (s.c < 5) && (engOf b1 s.e).lops.isEmpty && decide ((s.ctx b1).dgrp = 0) && decide ((s.ctx b1).rgrp = 0) &&
    decide ((s.ctx b1).data.length ≤ capData s.c) && decide ((s.ctx b1).ret.length ≤ capRet s.c) &&
    (lockOf b1 s.e s.c).isNone && plainStores b1 s.field && (engOf b1 s.e).ctxq.isEmpty && p s b1
  | none => false

/-- Engine 0 of a block meets a syllable, and what is asked of the site and the block it finds holds. -/
def Shown (b : Blk) (id : Nat) (p : Site → Blk → Bool) : Prop := ∃ s b1, Meets ⟨b, []⟩ 0 id s b1 ∧ p s b1 = true

theorem shown_of {b : Blk} {id : Nat} {p : Site → Blk → Bool} (h : meetsB b id p = true) : Shown b id p := by
  unfold meetsB at h
  split at h
  · rename_i s b1 e
    simp only [Bool.and_eq_true, decide_eq_true_eq, List.isEmpty_iff, Option.isNone_iff_eq_none] at h
    obtain ⟨⟨⟨⟨⟨⟨⟨⟨⟨h1, h2⟩, h3⟩, h4⟩, h5⟩, h6⟩, h7⟩, hp⟩, hq⟩, h8⟩ := h
    exact ⟨s, b1, ⟨⟨e, ⟨h1, fun _ _ => if_pos hp, h2, hq, h3, h4, h5, h6⟩⟩, h7⟩, h8⟩
  · exact absurd h (by decide)

abbrev Case := Blk × Nat × (Site → Blk → Bool)

theorem all_shown {l : List Case} (h : (l.all fun c => meetsB c.1 c.2.1 c.2.2) = true) : ∀ c ∈ l, Shown c.1 c.2.1 c.2.2 :=
  fun c hc => shown_of (List.all_eq_true.mp h c hc)

/-- The stacks that the syllable finds: at least n data cells and r return cells clean, with room for k more. -/
def cached (n r k : Nat) (s : Site) (b : Blk) : Bool :=
  let d := (s.ctx b).data
  decide (n ≤ d.length) && decide (r ≤ (s.ctx b).ret.length) && (d.take n).all (fun x => !x.p) &&
    decide (d.length + k ≤ capData s.c) && decide ((s.ctx b).ret.length + k ≤ capRet s.c)

/-! Witnesses for the syllables. -/

def five : List SCell := [sc 5, sc 6, sc 7]

theorem witness_StackSyllablesRearrange : ∀ x ∈ ([0, 1, 2, 3, 4, 5, 6, 7, 8, 9, 10, 11, 12, 15].map
    fun id => (at_ id five [sc 9], id, cached 3 1 2) : List Case), Shown x.1 x.2.1 x.2.2 := all_shown (by decide +kernel)

theorem witness_LiteralsDepthAndPickPush : ∀ x ∈ ([
    (at_ 0x60 five [], 0x60, cached 0 0 1), (at_ 0x70 five [], 0x70, cached 0 0 1), (at_ 0x71 five [], 0x71, cached 0 0 2),
    (at_ 0x0E five [], 0x0E, cached 0 0 1),
    (at_ 0x0D [sc 0, sc 6] [], 0x0D, fun s b => cached 2 0 1 s b && decide (uval s.tw 0 < 1)),
    (at_ 0x0D [sc 1, sc 6, sc 7] [], 0x0D, fun s b => cached 3 0 1 s b && decide (uval s.tw 1 < 2))] : List Case),
    Shown x.1 x.2.1 x.2.2 := all_shown (by decide +kernel)

/-- TV is set and the result is the greatest that fits; TV is clear and it does not fit. -/
theorem witness_SumsAndDifferences : ∀ x ∈ ([0x10, 0x11, 0x12, 0x13].flatMap fun id => [
    (stand 1 (cellOf id) [sc (if id % 2 = 0 then 1 else 0x3FFF), sc 0x1FFE] [] [] 0x2100, id, fun s b => psTV (s.ctx b) &&
      decide ((s.ctx b).data.length = 2) && inRange s.tw (sval s.tw 0x1FFE + 1) && !inRange s.tw (sval s.tw 0x1FFE + 2)),
    (at_ id [sc (if id % 2 = 0 then 2 else 0x3FFE), sc 0x1FFE] [], id, fun s b => !psTV (s.ctx b) &&
      decide ((s.ctx b).data.length = 2))] : List Case), Shown x.1 x.2.1 x.2.2 := all_shown (by decide +kernel)

theorem witness_OverflowSyllables : ∀ x ∈ ([0x18, 0x19, 0x1A, 0x29, 0x2A, 0x2B, 0x2E].flatMap fun id => [
    (stand 1 (cellOf id) [sc 1, sc 0x1FFE] [] [] 0x2100, id, fun s b => psTV (s.ctx b) && decide ((s.ctx b).data.length = 2) &&
      inRange s.tw (sval s.tw 0x1FFE + sval s.tw 1) && inRange s.tw (sval s.tw 0x1FFE * sval s.tw 1)),
    (at_ id [sc 0x2000, sc 0x2000] [], id, fun s b => !psTV (s.ctx b) && decide ((s.ctx b).data.length = 2))] : List Case),
    Shown x.1 x.2.1 x.2.2 := all_shown (by decide +kernel)

/-- Shifts by 0 and by the width. -/
theorem witness_ShiftsAndRotates : ∀ x ∈ ([0x1B, 0x1C, 0x1D, 0x1E, 0x1F, 0x20, 0x21].flatMap fun id =>
    [0, 14].map fun n => (at_ id [sc n, sc 0x2001] [], id,
      fun s b => decide ((s.ctx b).data = [sc n, sc 0x2001]) && !s.tw) : List Case),
    Shown x.1 x.2.1 x.2.2 := all_shown (by decide +kernel)

theorem witness_LogicAndComparisons : ∀ x ∈ ([0x14, 0x15, 0x16, 0x17, 0x22, 0x23, 0x24, 0x25, 0x26, 0x27, 0x28, 0x2C, 0x2D, 0x2F].map fun id =>
    (at_ id [sc 0x2000, sc 0x1FFF] [], id, fun s b => decide ((s.ctx b).data = [sc 0x2000, sc 0x1FFF])) : List Case),
    Shown x.1 x.2.1 x.2.2 := all_shown (by decide +kernel)

theorem witness_ExtendedCellOperations : ∀ x ∈ (([0x98, 0x99, 0xA0, 0xA1, 0xA2, 0xA3, 0xA4].map fun id =>
    (at_ id [scP 5 true, sc 6, sc 7] [], id, fun s b => cached 0 0 1 s b && decide (s.c ≠ 0) && decide (3 ≤ (s.ctx b).data.length))) ++
    [(stand 0 (cellOf 0x99) [scP 5 true] [] [] kern, 0x99, fun s b => decide (s.c = 0) && decide ((s.ctx b).data = [scP 5 true]))] : List Case),
    Shown x.1 x.2.1 x.2.2 := all_shown (by decide +kernel)

/-- A read at a data address of view 0 is ready, and a store. -/
def readyTo (kinds : List Nat) (as : List (BitVec 28)) (s : Site) (b : Blk) : Bool :=
  kinds.all fun k => decide (ready s false (as.map (fun a => { kind := k, ea := a, p := false })) b = .ok b)

theorem witness_LoadsPushWhatTheyRead : ∀ x ∈ ([
    (filled (at_ 0x30 [sc 0x1010] []), 0x30, fun s b => cached 1 0 1 s b && readyTo [0, 1] [s.addr 0x1010] s b &&
      decide ((readCell s false (s.addr 0x1010) b).2 = b)),
    (at_ 0x32 [sc 0x1FFF] [], 0x32, fun s b => cached 1 0 1 s b && readyTo [0] [s.addr 0x1FFF] s b),
    (at_ 0x34 [sc 0x1010] [], 0x34, fun s b => cached 1 0 1 s b &&
      decide (readyRead s true [s.addr 0x1010, s.off (s.addr 0x1010) s.words] b = .ok b)),
    (at_ 0x38 [sc 0x0001] [], 0x38, cached 1 0 0),
    (at_ 0x3F [sc 0x0001] [], 0x3F, fun s b => cached 1 0 0 s b && !((cellWords s b 1).all (fun w => isOwnMem s.field w))),
    (at_ 0x36 [sc 2, sc 0x1010] [], 0x36, fun s b => cached 2 0 0 s b && readyTo [0] [s.addr 0x1012] s b)] : List Case),
    Shown x.1 x.2.1 x.2.2 := all_shown (by decide +kernel)

theorem witness_StoresBufferTheirCells : ∀ x ∈ ([
    (at_ 0x31 [sc 0x1010, sc 7] [], 0x31, fun s b => cached 2 0 0 s b && readyTo [1] [s.addr 0x1010] s b),
    (at_ 0x33 [sc 0x1FFF, sc 7] [], 0x33, fun s b => cached 2 0 0 s b && readyTo [1] [s.addr 0x1FFF] s b),
    (at_ 0x39 [sc 0x0010, sc 7] [], 0x39, fun s b => cached 2 0 0 s b && s.kern && decide (roomFor s.e 1 b = .ok b)),
    (at_ 0x35 [sc 0x1010, sc 7, sc 8] [], 0x35, fun s b => cached 3 0 0 s b && readyTo [1] [s.addr 0x1010, s.off (s.addr 0x1010) s.words] s b)] : List Case),
    Shown x.1 x.2.1 x.2.2 := all_shown (by decide +kernel)

theorem witness_ReadAndWriteOfOneCell : ∀ x ∈ (([0x37, 0x3A, 0x3B, 0x3C].flatMap fun id => [13, 14].map fun n =>
    (filled (at_ id [sc 0x1010, sc n] []), id, fun s b => cached 2 0 0 s b && readyTo [2] [s.addr 0x1010] s b &&
      !bitesStore s b (s.addr 0x1010) false && decide ((readCell s false (s.addr 0x1010) b).2 = b))) ++
    [(filled (at_ 0x3E [sc 0x1010, sc 0, sc 9] []), 0x3E, fun s b => readyTo [2] [s.addr 0x1010] s b && decide (roomFor s.e 1 b = .ok b) &&
      decide ((readCell s false 0x1010 b).1 = sc 0) && !bitesStore s b (s.addr 0x1010) false),
    (filled (at_ 0x3E [sc 0x1010, sc 1, sc 9] []), 0x3E, fun s b => readyTo [2] [s.addr 0x1010] s b && decide (roomFor s.e 1 b = .ok b) &&
      decide ((readCell s false 0x1010 b).1 = sc 0)),
    (at_ 0x3D [sc 8, sc 0x1010] [], 0x3D, fun s b => cached 2 0 0 s b && decide (s.c ≠ 4) &&
      ((List.range 8).map (fun i => resolve s b (s.off (s.addr 0x1010) i))).all (fun a => isOwnMem s.field a && !heldByOther b s.e a)),
    (at_ 0x3D [sc 9, sc 0x1010] [], 0x3D, fun s b => cached 2 0 0 s b && decide (8 < uval s.tw 9)),
    (at_ 0x3D [sc 0, sc 0x1010] [], 0x3D, fun s b => cached 2 0 0 s b && decide (uval s.tw 0 < 1))] : List Case),
    Shown x.1 x.2.1 x.2.2 := all_shown (by decide +kernel)

/-- The mask is empty, has one bit, and has two. -/
theorem witness_MaskedBlockTransfers : ∀ x ∈ ([128, 129].flatMap fun id => [0, 1, 0x2001].map fun m =>
    (at_ id [sc (BitVec.ofNat 28 m), sc 0x1010, sc 7, sc 8] [], id, fun s b => cached 4 0 1 s b && !(s.ctx b).mfree && !(s.ctx b).mip &&
      readyTo [0, 1] [s.addr 0x1010, s.addr 0x101D] s b &&
      (if m = 0 then true else decide (m = 2 ^ lowBit m ∧ m = 2 ^ highBit m ∨ lowBit m < highBit m))) : List Case),
    Shown x.1 x.2.1 x.2.2 := all_shown (by decide +kernel)

/-- A string of no cell, of one, and of two. -/
theorem witness_StringOperationsByCell : ∀ x ∈ ([130, 131, 132].flatMap fun id => [0, 1, 2].map fun n =>
    (at_ id [sc n, sc 0x1010, sc 0x1020] [], id, fun s b => cached 3 0 0 s b && !(s.ctx b).mfree && !(s.ctx b).mip &&
      readyTo [0, 1] [s.addr 0x1010] s b && readyTo [0] [s.addr 0x1020] s b && decide (ready s false [{ kind := 0, ea := s.addr 0x1020, p := false }, { kind := 1, ea := s.addr 0x1010, p := false }] b = .ok b) &&
      decide (ready s false [{ kind := 0, ea := s.addr 0x1020, p := false }, { kind := 0, ea := s.addr 0x1010, p := false },
        { kind := 1, ea := s.addr 0x1010, p := false }] b = .ok b) &&
      !bitesStore s b (s.addr 0x1010) false && !psTD (s.ctx b)) : List Case),
    Shown x.1 x.2.1 x.2.2 := all_shown (by decide +kernel)

theorem witness_BranchesTakenAndNotTaken : ∀ x ∈ (([0x40, 0x48].map fun id => (at_ id [] [], id, fun _ _ => true)) ++
    ([0x41, 0x42, 0x49, 0x4A].flatMap fun id => [0, 1].map fun n =>
      (at_ id [sc n] [], id, fun s b => cached 1 0 0 s b && (decide (uval s.tw n = 0) == decide (n.toNat = 0)))) : List Case),
    Shown x.1 x.2.1 x.2.2 := all_shown (by decide +kernel)

/-- LOOP at a count of 1, which ends, and of 2, which goes on. -/
theorem witness_CallsReturnsAndLoops : ∀ x ∈ [
    (at_ 0x43 [] [], 0x43, cached 0 0 1), (at_ 0x46 [sc 0x40] [], 0x46, cached 1 0 1), (at_ 0x45 [sc 0x40] [], 0x45, cached 1 0 0),
    (at_ 0x44 [] [sc 0x40], 0x44, cached 0 1 0),
    (at_ 0x47 [] [sc 1, sc 0x40], 0x47, fun s b => cached 0 2 0 s b && decide (wid s.tw (1 - 1) = 0)),
    (at_ 0x47 [] [sc 2, sc 0x40], 0x47, fun s b => cached 0 2 0 s b && decide (wid s.tw (2 - 1) ≠ 0))],
    Shown x.1 x.2.1 x.2.2 := all_shown (by decide +kernel)

/-- C0 of engine 0 holds slot 3, whose record waits in the pipe of field 0. -/
def slotRec : SlotRec :=
  { seq := 3, slot := 3, sweep := 0, nolock := false, ridx := 0, member := some 0, n := 1, wsel := false, msel := false,
    gsel := false, mapctl := 0, zs := 0, masks := [], wins := [], maj := [], wpois := false, hits := 0, pois := false,
    closed := true, dispatched := true, marked := false, decision := none, prims := [], peer := none, sd := false, settled := none }
def inSlot (b : Blk) : Blk := onField 0 (fun g => { g with pipe := [slotRec], cur := { g.cur with seq := 3 } })
  (onEng 0 (fun x => { x with slot := some 3 }) b)

theorem witness_TurnsSleepHaltAndSlotEnd : ∀ x ∈ ([
    (at_ 0x4E [] [], 0x4E, fun s b => decide (1 ≤ s.c ∧ s.c ≤ 3) && !(engOf b s.e).stepping),
    (at_ 0x4D [] [], 0x4D, fun s b => decide (1 ≤ s.c ∧ s.c ≤ 3) && !(engOf b s.e).stepping),
    (at_ 0x4F [] [], 0x4F, fun s b => s.kern && !(engOf b s.e).stepping),
    (inSlot (stand 0 (cellOf 154) [] [] [] kern), 154, fun s b => decide (s.c = 0) && !(engOf b s.e).stepping &&
      (engOf b s.e).sbuf.isEmpty && decide ((engOf b s.e).slot = some 3) && (recOf b s.field 3).isSome)] : List Case),
    Shown x.1 x.2.1 x.2.2 := all_shown (by decide +kernel)

theorem witness_TrapSyllablesEnterFe : ∀ x ∈ ([
    (at_ 0x4C [sc 7] [], 0x4C, fun s b => cached 1 0 0 s b && decide (s.c ≠ 4)),
    (at_ 0x7C [] [], 0x7C, fun s b => !bit (reg b (aE s.e 0x30)) 5 && decide (s.c ≠ 4)),
    (setReg (aE 0 0x30) 0x20 (at_ 0x7C [] []), 0x7C, fun s b => bit (reg b (aE s.e 0x30)) 5 && !(engOf b s.e).stepping),
    (at_ 0x7F [] [], 0x7F, fun s _ => decide (s.c ≠ 4)),
    (stand 1 0x3F00 [] [] [] kern, 0x7F, fun s _ => decide (s.c ≠ 4))] : List Case),
    Shown x.1 x.2.1 x.2.2 := all_shown (by decide +kernel)

theorem witness_TrapConditionsOfSyllables : ∀ x ∈ ([
    (stand 1 (cellOf 0x10) [sc 1, sc 0x1FFF] [] [] 0x2100, 0x10, fun s b => psTV (s.ctx b) &&
      !inRange s.tw (sval s.tw 0x1FFF + sval s.tw 1)),
    (stand 1 (cellOf 0x52) [sc 0, sc 1] [] [] 0x2080, 0x52, fun s b => psTZ (s.ctx b) && decide (uval s.tw 0 = 0)),
    (stand 1 (cellOf 0x54) [sc 10, sc 1] [] [] 0x2040, 0x54, fun s b => psTD (s.ctx b) && (decimal s.tw false 1 10 0).isNone && !psC (s.ctx b)),
    (at_ 0x41 [scP 0 true] [], 0x41, fun s b => decide ((s.ctx b).data = [scP 0 true])),
    (at_ 0x45 [scP 0 true] [], 0x45, fun s b => decide ((s.ctx b).data = [scP 0 true])),
    (stand 1 (cellOf 0x4F) [sc 1, sc 2] [] [] 0, 0x4F, fun s b => !s.kern && cached 2 0 0 s b),
    (stand 1 (cellOf 146) [sc 1, sc 2] [] [] 0, 146, fun s b => !s.kern && cached 2 0 0 s b),
    (at_ 0x02 [] [], 0x02, fun s b => (s.ctx b).data.isEmpty && decide ((s.ctx b).dsp = (s.ctx b).dbase)),
    (at_ 0x79 [] [], 0x79, fun s b => !psFPA (s.ctx b) && decide (s.c ≠ 4))] : List Case),
    Shown x.1 x.2.1 x.2.2 := all_shown (by decide +kernel)

/-- FE of engine 0 stands at a syllable. -/
def inFe (id : Nat) : Blk := stand 4 (cellOf id) [] [] [] kern

theorem witness_DoubleFaultStopsTheEngine : ∀ x ∈ ([0x7F, 0x7C, 0x79].map fun id => (inFe id, id, fun s b =>
    decide (s.c = 4) && !bit (reg b (aB 0x200)) 13 && !bit (reg b (aE s.e 0x30)) 5) : List Case),
    Shown x.1 x.2.1 x.2.2 := all_shown (by decide +kernel)

/-- RETE in FE; of a handler that interrupted its context in IDLE (LV bit 12), and of one that did not. -/
theorem witness_ReturnsRestoreTheContext : ∀ x ∈ ([
    (inFe 0x4B, 0x4B, fun s b => decide (s.c = 4) && !(engOf b s.e).abandFE),
    (at_ 0x4B [] [sc 0x1000, sc 0, sc 0x40], 0x4B, fun s b => cached 0 3 0 s b && s.kern && !(engOf b s.e).stepping && !called b s.e s.c),
    (at_ 0x4B [] [sc 0x2001, sc 0, sc 0x40], 0x4B, fun s b => cached 0 3 0 s b && s.kern && !(engOf b s.e).stepping && !called b s.e s.c)] : List Case),
    Shown x.1 x.2.1 x.2.2 := all_shown (by decide +kernel)

/-- Operands at 0 and not; a division by 0 and one that is not. -/
theorem witness_LongOperationsIssueTheirResults : ∀ x ∈ ([0x50, 0x51, 0x52, 0x53, 0x54, 0x55].flatMap fun id => [0, 1].map fun n =>
    (at_ id [sc n, sc 0x2000] [], id, fun s b => cached 2 0 0 s b && decide (fenables (s.ctx b) = 0) && !psTV (s.ctx b) && !psTZ (s.ctx b) &&
      !psTD (s.ctx b) && (decide (sval s.tw n = 0) == decide (n.toNat = 0))) : List Case),
    Shown x.1 x.2.1 x.2.2 := all_shown (by decide +kernel)

/-- The float unit is free to be used, and its stack holds n cells. -/
def floats (n : Nat) (s : Site) (b : Blk) : Bool :=
  decide (s.c ≠ 4) && psFPA (s.ctx b) && decide (fenables (s.ctx b) = 0) && (s.ctx b).rmOld.isNone && decide ((engOf b s.e).fst.length = n)

theorem witness_FloatOperationsIssueTheirResults : ∀ x ∈ (([0x56, 0x57, 0x58, 0x59, 0x5E, 0x5F].map fun id =>
    (atF id [] [sc 1, sc 2, sc 3, sc 4], id, floats 4)) ++ [(atF 0x5A [] [sc 1, sc 2, sc 3, sc 4], 0x5A, floats 4)] : List Case),
    Shown x.1 x.2.1 x.2.2 := all_shown (by decide +kernel)

theorem witness_FloatComparisonsConversionsAndMoves : ∀ x ∈ ([
    (atF 0x5B five [sc 1, sc 2, sc 3, sc 4], 0x5B, fun s b => floats 4 s b && cached 3 0 2 s b),
    (atF 0x5C five [sc 1, sc 2, sc 3], 0x5C, fun s b => floats 3 s b && cached 3 0 2 s b),
    (atF 168 five [sc 1, sc 2, sc 3], 168, fun s b => floats 3 s b && cached 3 0 2 s b && !s.tw),
    (twinned (atF 169 five [sc 1]), 169, fun s b => floats 1 s b && cached 3 0 2 s b && s.tw),
    (atF 0x5D five [sc 1, sc 2], 0x5D, fun s b => floats 2 s b && cached 3 0 0 s b),
    (twinned (atF 168 five [sc 1, sc 2]), 168, fun s b => floats 2 s b && cached 3 0 0 s b && s.tw),
    (atF 169 five [sc 1, sc 2], 169, fun s b => floats 2 s b && cached 3 0 0 s b && !s.tw),
    (atF 0x77 five [sc 1, sc 2], 0x77, fun s b => floats 2 s b && cached 1 0 0 s b),
    (atF 0x78 five [sc 1, sc 2, sc 3], 0x78, fun s b => floats 3 s b && cached 0 0 1 s b),
    (atF 0x79 five [sc 1, sc 2, sc 3], 0x79, floats 3), (atF 0x7A five [sc 1, sc 2, sc 3], 0x7A, floats 3),
    (atF 0x7B five [sc 1, sc 2, sc 3, sc 4], 0x7B, floats 4)] : List Case),
    Shown x.1 x.2.1 x.2.2 := all_shown (by decide +kernel)

/-- Nothing waits in the store buffer, so that the block is as it is once the earlier writes have taken effect. -/
theorem witness_SystemSyllables : ∀ x ∈ (([0x73, 0x74].map fun id => (at_ id [] [], id, fun s b => decide (synchronized s.e s.c b = .ok b))) ++ [
    (at_ 144 [sc 3, sc 0x81] [], 144, fun s b => cached 2 0 0 s b && s.kern),
    (setReg (aE 0 0x0A) 8 (stand 1 (cellOf 144) [sc 3, sc 0x81] [] [] 0), 144, fun s b => cached 2 0 0 s b && !s.kern &&
      bit (reg b (aE s.e 0x0A)) (fld (3 : BitVec 28) 0 2)),
    (at_ 145 [sc 3] [], 145, cached 1 0 0), (at_ 148 [sc 3] [], 148, cached 1 0 0),
    (stand 1 (0x7D * 128 + 31) [sc 3] [] [] kern, 0x7D, cached 1 0 0), (at_ 149 five [], 149, cached 0 0 2)] : List Case),
    Shown x.1 x.2.1 x.2.2 := all_shown (by decide +kernel)

/-- Each range of register numbers at its ends. -/
theorem witness_RegisterSyllables : ∀ x ∈ (([0, 63, 64, 127].map fun n =>
    (stand 1 (0x75 * 128 + n) five [] [] kern, 0x75, fun s b => s.kern && (engOf b s.e).sbuf.isEmpty && cached 0 0 1 s b && decide (s.partner = n))) ++
    ([0, 5, 63, 64, 65, 66, 127].map fun n =>
    (stand 1 (0x76 * 128 + n) five [] [] kern, 0x76, fun s b => s.kern && (engOf b s.e).sbuf.isEmpty && cached 1 0 0 s b && decide (s.c ≠ 4) && decide (s.partner = n))) ++
    [(at_ 146 [sc 63, sc 4, sc 7] [], 146, fun s b => cached 3 0 0 s b && s.kern && (engOf b s.e).sbuf.isEmpty),
     (at_ 147 [sc 63, sc 4, sc 7] [], 147, fun s b => cached 3 0 0 s b && s.kern && (engOf b s.e).sbuf.isEmpty)] : List Case),
    Shown x.1 x.2.1 x.2.2 := all_shown (by decide +kernel)

theorem witness_EventSyllables : ∀ x ∈ ([
    (at_ 136 five [], 136, fun s b => (engOf b s.e).sbuf.isEmpty && cached 0 0 1 s b),
    (at_ 137 five [], 137, fun s b => decide (roomFor s.e 1 b = .ok b) && cached 1 0 0 s b)] : List Case),
    Shown x.1 x.2.1 x.2.2 := all_shown (by decide +kernel)

/-! Witnesses for the commands that are no syllables: blocks that differ from `awake` in a few places. -/

def withEng (f : Engine → Engine) (b : Blk) : Blk := onEng 0 f b
def withField (f : Field → Field) (b : Blk) : Blk := onField 0 f b
def inMode (n : BitVec 14) : Blk := setReg (aB 0x000) n awake

/-- Source s of field 0 goes to C1 of engine 0 with HIDX 0 and NEED 1, in state x. -/
def source (s : Nat) (x : Src) (b : Blk) : Blk :=
  putWord (.srcTab 0 (2 * s + 1)) (storedWord 0x0040) <| putWord (.srcTab 0 (2 * s)) (storedWord 0x2100) <| putSrc 0 s x b
def waitingSrc : Src := { st := .pending, r := 1, g := 0, repend := false, claimer := 0 }

/-- C1 of engine 0 has its events enabled (PS bit 12), with source 511 pending. -/
def eventful : Blk := setReg (aF 0 0x101) 0 <| source 511 waitingSrc (withEng (fun x => { x with run := none }) (stand 1 0 five [] [] 0x3000))

theorem witness_EventEntryPushesTheFrame_stores (n : Nat) (q : HwSeq) :
    micro { eventful with free := n } (fldOf 0) (seqEntry q) = .fine :=
  if_pos (by decide +kernel : plainStores eventful 0 = true)

theorem witness_EventEntryPushesTheFrame :
    eventful.md.off = false ∧ overrunIfLate (fldOf 0) eventful = eventful ∧ mayIssue eventful 0 = true ∧ pick eventful 0 = some (1, true) ∧
    (engOf eventful 0).lops = [] ∧ (engOf eventful 0).stepping = false ∧ (engOf eventful 0).entry = none ∧ plainStores eventful 0 = true ∧
    topSource (switchIn 0 1 eventful) (fldOf 0) (locOf 0) 1 = some 511 ∧ (ctxOf eventful 0 1).dgrp = 0 ∧ (ctxOf eventful 0 1).rgrp = 0 ∧
    (ctxOf eventful 0 1).ret.length + 3 ≤ capRet 1 ∧ (ctxOf eventful 0 1).data.length + 1 ≤ capData 1 ∧
    (srcLive (switchIn 0 1 eventful) (fldOf 0) 511).isSome = true ∧ isTwin (switchIn 0 1 eventful) 0 = false := by decide +kernel

/-- One long operation in flight with two places, and one of a float place; one store in the buffer. -/
def place : SCell := { v := 0, p := true, pend := true }
def oneOp (res fres : List (BitVec 28 × Bool)) : LOp := { ctx := 1, res := res, fres := fres, psMask := 0, psVal := 0, fl := 0, hold := false, float := false }
def longOp : Blk := withEng (fun x => { x with lops := [oneOp [(1, false), (2, false)] []] }) (at_ 0 [place, place, sc 5] [])
def longFloat : Blk := withEng (fun x => { x with lops := [oneOp [] [(1, false)]], fst := [place, sc 3] }) (at_ 0 five [])
def buffered1 (a : Nat) : Blk := withEng (fun x => { x with sbuf := [{ ws := [(a, clean 5)], seq := none, ctx := 1 }] }) awake

theorem witness_CompletionsAndDrains :
    longOp.md.off = false ∧ clocked longOp (fldOf 0) = true ∧ 0 < nEngines longOp ∧ (engOf longOp 0).lops.length = 1 ∧
    (ctxOf longOp 0 1).data = [place, place] ++ [sc 5] ∧ (engOf longOp 0).fst = [] ∧
    longFloat.md.off = false ∧ clocked longFloat (fldOf 0) = true ∧ (ctxOf longFloat 0 1).data = [] ++ five ∧
    (engOf longFloat 0).fst = { v := 0, p := true, pend := true } :: [sc 3] ∧
    (∀ a ∈ [0, 0xFFFF], (buffered1 a).md.off = false ∧ clocked (buffered1 a) (fldOf 0) = true ∧ a / 0x10000 = fldOf 0 ∧
      heldByAny (buffered1 a) a = false ∧ (fieldOf (buffered1 a) 0).clearing = false ∧ (fieldOf (buffered1 a) 0).sinter.phase = 0 ∧
      (fieldOf (buffered1 a) 0).bad = [] ∧ (fieldOf (buffered1 a) 0).lastB = [] ∧ 0 < nEngines (buffered1 a) ∧ bit (reg (buffered1 a) (aF 0 0x1C3)) 13 = false) := by decide +kernel

def pairBlk (e : Nat) : Blk := setReg (aF (e / 8) 2) (BitVec.ofNat 14 (2 ^ (e % 8 / 2))) awake

theorem witness_ContextRegistersReadAndWrite :
    isTwin (pairBlk 0) 0 = true ∧ isTwin (pairBlk 62) 62 = true ∧
    16 + (ctxOf (onCtx 0 0 (fun y => { y with data := five }) (pairBlk 0)) 0 0).data.length = 19 ∧
    32 + (ctxOf (pairBlk 0) 0 3).ret.length = 32 ∧ 11 - 8 < (ctxOf (pairBlk 0) 0 3).views.length := by decide +kernel

/-- The debug master at LEVEL 0, whose reads do not act. -/
theorem witness_ReadsWithSideEffects : Awake awake ∧
    readsAct awake .host = true ∧ readsAct awake .debug = false ∧
    regHere awake (aF 7 0x104) = true ∧ atOdd awake (aF 7 0x104) = false ∧ isRc (aF 7 0x104) = true ∧
    regHere awake (aB 0x046) = true ∧ wideAt awake (aB 0x046) = some 0 ∧ nobclk awake = false ∧ nobclk (setReg (aB 0x041) 0x100 awake) = true ∧
    clocked awake 7 = true ∧ isOdd awake 63 = false ∧ topClaim awake 7 7 = none ∧ topClaim (source 511 waitingSrc awake) 0 0 = some 511 ∧
    (engOf awake 63).lops = [] ∧ isTwin awake 62 = false ∧ isTwin (pairBlk 62) 62 = true ∧ (engOf (pairBlk 62) 62).half = none ∧
    (engOf (withEng (fun x => { x with half := some (false, 0, false) }) (pairBlk 0)) 0).half ≠ none ∧ awake.stw.waiting = [] ∧
    regHere (withField (fun g => { g with pwr := .off }) awake) (aF 0 0) = false ∧
    (isRc (aB 0x04F) = true ∧ isTbReg (aB 0x04F) = true ∧ regHere awake (aB 0x04F) = true) ∧
    regHere (inMode 9) (aB 0x1C5) = true ∧ (wideAt (lookAt (aB 0x1C5) (inMode 9)) (aB 0x1C5)).isSome = true := by unfold Awake; decide +kernel

theorem witness_RegisterWritesByAccessCode : Awake awake ∧
    isRegAddr (aB 0x188) = true ∧ regHere awake (aB 0x188) = true ∧ atOdd awake (aB 0x188) = false ∧ plainReg (aB 0x188) = true ∧
    (regRow (aB 0x188)).isSome = true ∧ plainReg (aB 0x3FF) = true ∧ regRow (aB 0x3FF) = none ∧
    regHere awake (aB 0x1000) = false ∧ atOdd (pairBlk 62) (aE 63 0) = true ∧ isDoorbell (aB 0x188) = false ∧
    (isTbReg (aB 0x188) && nobclk awake) = false ∧ isTbReg (aB 0x0BF) = true ∧ nobclk (setReg (aB 0x041) 0x100 awake) = true := by unfold Awake; decide +kernel

theorem witness_GuardedFieldRegisters : Awake awake ∧ Awake (inMode 2) ∧ Awake (inMode 3) ∧
    clocked awake 7 = true ∧ fenBit awake 7 = false ∧ fenBit (setReg (aF 7 0) 1 awake) 7 = true ∧ busyOf awake 7 = false ∧
    modeOf (inMode 2) = 2 ∧ modeOf (inMode 3) = 3 ∧ modeOf awake = 4 ∧ bit (reg awake (aF 7 0)) 13 = false ∧
    bit (reg (setReg (aF 7 0) 0x2A00 awake) (aF 7 0)) 13 = true ∧ fld (reg (setReg (aF 7 0) 0x2A00 awake) (aF 7 0)) 9 4 = 5 := by
  unfold Awake; decide +kernel

theorem witness_GuardedBlockRegisters : Awake awake ∧ Awake (inMode 2) ∧ modeOf (inMode 2) = 2 ∧ modeOf awake = 4 ∧ modeOf (inMode 5) = 5 ∧
    clocked awake 7 = true ∧ mayDebug awake .host = true ∧ mayDebug (setReg (aB 0x300) 0 awake) .host = false ∧
    mayDebug { awake with auth := { Auth.dpor with level := 2 } } .debug = true ∧ awake.md.fabClear = false ∧
    (fieldOf awake 7).clearing = false ∧ nobclk awake = false ∧ nobclk (inMode 5) = false ∧ nobclk (setReg (aB 0x041) 0x100 awake) = true ∧
    bit (0x8 : BitVec 14) 3 = true ∧ bit (reg (setReg (aB 0x01F) 0x2000 awake) (aB (0x01C + 3))) (10 + 3) = true ∧
    Awake (setReg (aB 0x01F) 0x2000 awake) := by
  unfold Awake; decide +kernel

theorem witness_TimebaseWritesAndCaptures :
    let sel := setReg (aB 0x07F) 4 awake
    let again := setReg (aB 0x07F) 5 awake
    Awake awake ∧ awake.tb.gwait = none ∧ (onTb (fun t => { t with gwait := some (1, 1, 1) }) awake).tb.gwait ≠ none ∧
    bit (reg sel (aB (0x063 + 4 * 7))) 2 = true ∧ bit (reg sel (aB (0x063 + 4 * 7))) 0 = false ∧
    bit (reg again (aB (0x063 + 4 * 7))) 2 = true ∧ bit (reg again (aB (0x063 + 4 * 7))) 0 = true ∧ nobclk sel = false ∧ modeOf sel ≠ 0 ∧
    bit (reg (setReg (aB 0x07F) 7 awake) (aB (0x063 + 4 * 7))) 1 = true ∧ bit (reg again (aB (0x063 + 4 * 7))) 1 = false ∧
    fld (0x0FFF : BitVec 14) 4 8 ≠ 0 ∧ fld (0x0FFF : BitVec 14) 0 4 ≠ 0 ∧ nobclk awake = false ∧ nobclk (setReg (aB 0x041) 0x100 awake) = true ∧
    locked awake = false ∧ locked (setReg (aB 0x041) 1 awake) = true := by unfold Awake; decide +kernel

/-- A boundary that is due in ACQUIRE, at the first marker; one at which every pending change is due. -/
def due : Blk :=
  let b := setReg (aB 0x040) 3 (setReg (aB 0x042) 3 awake)
  { onTb (fun t => { t with slot := 1, gwait := some (1, 1, 1) }) b with
    fabSwap := some { kind := 2, slot := 0, sweep := 0, id := 0, reached := true }, md := { b.md with drainWait := true } }

theorem witness_BoundariesAdvanceTheTimebase :
    awake.md.off = false ∧ CaughtUp awake ∧ counting (inMode 9) = false ∧ CaughtUp (inMode 9) ∧ (inMode 5).tb.lastMark = false ∧ modeOf (inMode 5) = 5 ∧
    (inMode 5).md.drainWait = false ∧ (inMode 5).tb.first = true ∧ counting (inMode 5) = true ∧ CaughtUp (inMode 5) ∧
    (onTb (fun t => { t with lastMark := true }) awake).tb.lastMark = true ∧
    CaughtUp due ∧ counting due = true ∧ due.tb.lastMark = false ∧ nextSlot due.tb = 0 ∧ (reg due (aB 0x042)).toNat ≠ due.tb.spsEff ∧
    bit (reg due (aB 0x040)) 0 = true ∧ bit (reg due (aB 0x040)) 1 = true ∧ due.md.drainWait = true ∧
    due.fabSwap = some { kind := 2, slot := 0, sweep := lo14 (comingSweep due), id := 0, reached := true } ∧ due.tb.gwait = some (1, 1, 1) := by unfold CaughtUp; decide +kernel

/-- Field 0 has a boundary before it; with FEN set and not in effect, with FEN clear and in effect, with a swap due. -/
def tag1 : Tag := { Tag.zero with slot := 1, seq := 1, relF := 1, relT := 15 }
def fieldDue (f : Field → Field) (b : Blk) : Blk := withField (fun g => f { g with bq := [tag1] }) b
def fenDue : Blk := fieldDue id (setReg (aB 0x0D8) 8 (setReg (aF 0 0) 1 awake))
def swapDue (kind : Nat) : Blk := fieldDue (fun g => { g with
  tags := [Tag.zero], swaps := [{ kind := kind, slot := 0, sweep := 0, id := 0, reached := false }] }) (setReg (aF 0 0x042) 1 awake)

theorem witness_FieldsProcessTheirBoundaries :
    (fieldOf awake 7).bq = [] ∧ clocked fenDue 0 = true ∧ (fieldOf fenDue 0).bq = [tag1] ∧ bit tag1.relF 0 = true ∧ bit tag1.relT 3 = true ∧
    bit (tmrCtl (setReg (aF 0 0x14C) 4 fenDue) 0 3) 2 = true ∧
    (fieldOf fenDue 0).fenEff = false ∧ fenBit fenDue 0 = true ∧ (fieldOf fenDue 0).pipe = [] ∧ levelOf fenDue 0 = 8 ∧ 1 ≤ alignA fenDue ∧
    (let b := fieldDue (fun g => { g with fenEff := true, fenDrop := true }) awake
     (fieldOf b 0).fenDrop = true ∧ fenBit b 0 = false ∧ (fieldOf b 0).bq = [tag1] ∧ clocked b 0 = true) ∧
    (let b := withField (fun g => { g with fenEff := true, fenDrop := true }) fenDue
     (fieldOf b 0).fenDrop = true ∧ fenBit b 0 = true ∧ (fieldOf b 0).pipe = [] ∧ levelOf b 0 = 8 ∧ 1 ≤ alignA b) ∧
    (fieldOf fenDue 0).fenDrop = false ∧ (fieldOf (fieldDue (fun g => { g with fenEff := true }) awake) 0).fenEff = true ∧
    (let b := withField (fun g => { g with fenDrop := true, pipe := [slotRec] }) fenDue; (fieldOf b 0).fenDrop = true ∧ (fieldOf b 0).pipe ≠ []) ∧
    (∀ k ∈ [0, 1, 3, 4], swapWaits (swapDue k) 0 k = true ∧ (fieldOf (swapDue k) 0).pipe = [] ∧ (fieldOf (swapDue k) 0).fenEff = false ∧
      1 ≤ alignA (swapDue k)) ∧ fenBit awake 0 = false := by decide +kernel

theorem witness_ModeRequests : Awake awake ∧ Awake (inMode 2) ∧ modePend (inMode 7) = true ∧ Awake (inMode 7) ∧
    modePend awake = false ∧ modeOf awake = 4 ∧ slotsActive awake = false ∧ slotsActive (setReg (aF 0 0) 1 awake) = true ∧
    modePend (inMode 2) = false ∧ modeOf (inMode 2) = 2 ∧ (∀ e, e < nEngines (inMode 2) → runBit (inMode 2) e = false) ∧
    modePend (inMode 5) = false ∧ modePend (inMode 10) = true ∧ modeOf (inMode 11) = 11 ∧ modePend (inMode 11) = false ∧
    (inMode 11).md.killLow = false ∧ (∀ f, f < nFields (inMode 11) → (fieldOf (inMode 11) f).hot = 0) ∧
    ramping (each (fun f b => setReg (aB (0x0D8 + f)) 0x88 b) (List.range 8) (inMode 11)) = false ∧
    modePend (inMode 9) = false ∧ modeOf (inMode 9) = 9 ∧ wakeMode (inMode 9) = 5 := by unfold Awake; decide +kernel

theorem witness_ModeTransitions :
    awake.md.off = false ∧ modeOf (inMode 7) = 7 ∧ (onMd (fun m => { m with drainTo := some 2 }) (inMode 7)).md.drainTo = some 2 ∧
    anyBusy (inMode 7) = false ∧ anyBusy (withField (fun g => { g with pipe := [slotRec] }) (inMode 7)) = true ∧
    (onMd (fun m => { m with watchEntry := true }) awake).md.watchEntry = true ∧ slotsActive awake = false ∧
    (let b := setReg (aB 0x1C8) 1 (onMd (fun m => { m with wakeReq := true }) (inMode 9))
     b.md.wakeReq = true ∧ wakeFields b = [0] ∧ (∀ f ∈ wakeFields b, powered b f = true) ∧ modeOf b = 9 ∧ b.md.sleep ≤ 0 ∧
     ∃ f ∈ wakeFields (withField (fun g => { g with pwr := .off }) b), powered (withField (fun g => { g with pwr := .off }) b) f = false) ∧
    modeOf (inMode 10) = 10 ∧ frozen (setReg (aB 0x302) 0x100 awake) 8 = true ∧ frozen awake 8 = false ∧ modeOf (inMode 8) = 8 ∧
    (inMode 8).md.holdFrom < 8 := by decide +kernel

theorem witness_WarmResets :
    awake.md.off = false ∧ modeOf awake = 4 ∧ awake.md.warm = false ∧ modeOf (inMode 1) = 1 ∧ (inMode 1).md.warm = false ∧
    ({ awake with auth := { Auth.dpor with level := 2 } } : Blk).auth.level = 2 ∧ awake.auth.level ≠ 2 ∧
    (let b := onMd (fun m => { m with warm := true }) awake; b.md.warm = true ∧ b.host.htq = []) := by decide +kernel

theorem witness_WarmResets_no_store (e : Nat) : (engOf awake e).sbuf = [] := by
  show (getAt Engine.cold (Fixed.same Engine.cold : Fixed Engine 64) e).sbuf = []
  rw [getAt_same, ite_self]
  rfl

theorem witness_ColdResets : awake.md.off = false ∧ awake.md.warm = false ∧ ResetCause.software ≠ .pin ∧
    (onMd (fun m => { m with off := true }) awake).md.off = true := by decide +kernel

/-- A fuse record whose cells sum to 0 modulo 2^14. -/
def fuses : List BCell := clean 0x0F01 :: List.replicate 43 (clean 0) ++ [clean 0x30FF]

theorem witness_BringUpAndFieldPower :
    Blk.reset.md.off = false ∧ (fieldOf Blk.reset 7).pwr = .on ∧ modeOf (inMode 1) = 1 ∧
    (onMd (fun m => { m with fuseWait := true }) (inMode 1)).md.fuseWait = true ∧ fuseValid fuses = true ∧
    fuseValid (clean 0x0F01 :: List.replicate 44 (clean 0)) = false ∧ (inMode 1).md.fuseWait = false ∧ (inMode 1).md.clearWait = false ∧
    modeOf awake ≠ 1 ∧ bit (reg awake (aB 0x007)) 7 = true ∧
    (let b := setReg (aB 0x007) 0 (withField (fun g => { g with pwr := .off }) awake); bit (reg b (aB 0x007)) 0 = false ∧ (fieldOf b 0).pwr = .off) ∧
    (let b := { withField (fun g => { g with pwr := .rising }) awake with pswReq := 0xFE }; (fieldOf b 0).pwr = .rising ∧ bit b.pswReq 0 = false) ∧
    levelOf (setReg (aB 0x0DF) 0 awake) 7 = 0 ∧ fenBit awake 7 = false ∧ busyOf awake 7 = false ∧ bit awake.pswReq 7 = true := by decide +kernel

def slotted (r : SlotRec) : Blk := setReg (aE 0 0) 0x0801 <| withField (fun g => { g with pipe := [r], cur := { g.cur with seq := 3 } })
  (withEng (fun x => { x with slot := some 3, run := some 0 }) awake)

theorem witness_SlotsAreDispatchedAndSettled :
    Awake (slotted slotRec) ∧ clocked (slotted slotRec) 0 = true ∧
    ((slotOfMaster (slotted slotRec) 0 (.engine 0)).bind (recOf (slotted slotRec) 0)) = some slotRec ∧
    (slotOfMaster (slotted slotRec) 0 .host).bind (recOf (slotted slotRec) 0) = none ∧
    (∀ r ∈ (fieldOf (slotted slotRec) 0).pipe, isLate (slotted slotRec) 0 r = false) ∧
    waitingSlot (slotted slotRec) 0 = none ∧
    (let w := { slotRec with dispatched := false }
     let b := withEng (fun x => { x with slot := none, run := none }) (slotted w)
     waitingSlot b 0 = some w ∧ w.member = some 0 ∧ plainStores b 0 = true ∧ (engOf b 0).lops = [] ∧
     canDispatch b 0 = true ∧ canDispatch (setReg (aE 0 0) 0 b) 0 = false) ∧
    (let b := withField (fun g => { g with cur := { g.cur with seq := 100 } }) (slotted slotRec)
     (fieldOf b 0).pipe = [] ++ slotRec :: [] ∧ isLate b 0 slotRec = true ∧ (engOf b 0).slot = some slotRec.seq ∧
     (let k : LockSt := { ctx := 0, addrs := [0], n := 1, stored := 0, syls := 0, broken := false }
      lockOf (withEng (fun x => { x with locks := [k] }) b) 0 0 = some k ∧ (engOf b 0).run ≠ some 4)) := by unfold Awake; decide +kernel

/-- Field 0 maps slot 3: one released word, and one sample in the FIFO, on a channel whose map entry says tile 5. -/
def sample (ch : Nat) : Sample := { ch := ch, amp := 100, p := false, u := 0, hit := true }
def mapping (fifo : List Sample) (relq : List (List Sample)) (tile : BitVec 14) : Blk :=
  withField (fun g => { g with fifo := fifo, relq := relq, pipe := [{ slotRec with closed := false, masks := [9] }], fenEff := true,
                               cur := { g.cur with seq := 3 } })
    { awake with mem := [(0x100000 + 3 * 0, storedWord tile), (0x100000 + 3 * 0 + 1, storedWord 0), (0x100000 + 3 * 0 + 2, storedWord 0x1000)] }

/-- The mapper of field 0 has one sample in hand, whose channel is mapped to tile t, and masks channel 9. -/
def mapsTile (t : BitVec 14) : Bool :=
  let b := mapping [sample 0] [] t
  decide ((fieldOf b 0).fifo = [sample 0]) && !(fieldOf b 0).clearing && (match openRec b 0 with
    | some r => !r.masks.contains (sample 0).ch && r.masks.contains (sample 9).ch && decide (fld r.mapctl 10 4 = 0) &&
      decide (rawWord b (0x100000 + 0 * 0x20000 + (b2n r.msel * 0x10000 + 3 * (sample 0).ch)) = storedWord t) &&
      decide (rawWord b (0x100000 + 0 * 0x20000 + (b2n r.msel * 0x10000 + 3 * (sample 0).ch + 1)) = storedWord 0) &&
      decide (rawWord b (0x100000 + 0 * 0x20000 + (b2n r.gsel * 0x10000 + 3 * (sample 0).ch + 2)) = storedWord 0x1000) && !zsApplies r (sample 0)
    | none => false)

theorem witness_SamplesAreMapped :
    (mapping [sample 0] [] 5).md.off = false ∧ clocked (mapping [sample 0] [] 5) 0 = true ∧
    (fieldOf (mapping [] [[sample 0]] 5) 0).relq = [[sample 0]] ∧ openRec awake 0 = none ∧ fifoSize [] + fifoSize [sample 0] ≤ 512 ∧
    mapsTile 5 = true ∧ mapsTile 0x3FFF = true ∧
    (fieldOf awake 0).border.find? (fun c => decide (c.seq + alignA awake ≤ (fieldOf awake 0).cur.seq)) = none := by decide +kernel

/-- A border copy whose slot is in the mapper at the present boundary. -/
def copyIn : Border := { seq := 3, tile := 5, out := 7, u := 0 }
def bordered : Blk := setReg (aF 0 0x042) 1 (withField (fun g => { g with border := [copyIn], cur := { g.cur with seq := 4 } }) (mapping [] [] 5))

theorem witness_SamplesAreMapped_border :
    (fieldOf bordered 0).border.find? (fun c => decide (c.seq + alignA bordered ≤ (fieldOf bordered 0).cur.seq)) = some copyIn ∧
    (fieldOf bordered 0).fenEff = true ∧ (fieldOf bordered 0).k0 ≤ 3 ∧ ((openRec bordered 0).map fun r => r.seq) = some 3 := by decide +kernel

/-- A masked sample, a poisoned one, one whose table cell cannot be read, one that is suppressed; copies to both sides; a full FIFO. -/
theorem witness_SamplesAreMapped_cases :
    let full := List.replicate 512 (sample 0)
    let wide : SlotRec := { slotRec with mapctl := 0x1701 }
    clocked (withField (fun g => { g with pwr := .off }) awake) 0 = false ∧
    (∀ x ∈ [sample 9, { sample 0 with p := true }], (fieldOf (mapping [x] [] 5) 0).fifo = [x] ∧ (fieldOf (mapping [x] [] 5) 0).relq = [] ∧
      (openRec (mapping [x] [] 5) 0).isSome = true) ∧
    (rdMem (.chanMap 0 0) 8 (mapping [] [] 0)).1.p = false ∧ (rdMem (.chanMap 0 300) 8 (mapping [] [] 0)).1.p = true ∧
    (512 < fifoSize full + fifoSize [sample 0] ∧ openRec awake 0 = none) ∧
    zsApplies wide { sample 0 with hit := false } = true ∧ bit wide.mapctl 9 = true ∧ bit wide.mapctl 8 = true ∧ fld wide.mapctl 10 4 = 5 ∧
    (fieldOf (withField (fun g => { g with border := [copyIn], cur := { g.cur with seq := 4 }, fenEff := false }) awake) 0).fenEff = false ∧
    (openRec (withField (fun g => { g with pipe := [] }) bordered) 0 = none) := by decide +kernel

theorem witness_EventSourcesAndTimers :
    let act : Src := { waitingSrc with st := .active, r := 0 }
    Awake awake ∧ clocked awake 0 = true ∧ (fieldOf awake 0).clearing = false ∧ fld (0x01FF : BitVec 14) 0 9 = 511 ∧
    rawWord (source 511 waitingSrc awake) (0x220000 + 0 * 0x400 + 2 * 511) = storedWord 0x2100 ∧ bit (0x2100 : BitVec 14) 13 = true ∧
    rawWord (source 511 waitingSrc awake) (0x220000 + 0 * 0x400 + 2 * 511 + 1) = storedWord 0x0040 ∧
    (srcOf (fieldOf (source 511 act awake) 0) 511).st = .active ∧ (srcOf (fieldOf (source 511 act awake) 0) 511).claimer = 0 ∧
    isOdd awake 0 = false ∧ (srcLive (source 511 act awake) 0 511).isSome = true ∧ (srcOf (fieldOf awake 7) 511).st ≠ .active ∧
    srcLive (putSrc 0 511 act awake) 0 511 = none ∧ (fieldOf (putSrc 0 511 act awake) 0).srcs = [(511, act)] := by unfold Awake; decide +kernel

/-- A doorbell of a field that is off, or whose clock is stopped, is watched by entry 31, or by none. -/
theorem witness_EventSourcesAndTimers_stopped :
    let watched := setReg (aB 0x1FF) (0x2000 + 511) awake
    (∀ p ∈ [(Pwr.off, false), (Pwr.on, false)], let b := withField (fun g => { g with pwr := p.1, clk := p.2 }) awake
      clocked b 0 = false ∧ 0 < nFields b ∧ watchers b 0 511 = [] ∧ watchers (withField (fun g => { g with pwr := p.1, clk := p.2 }) watched) 0 511 = [31]) ∧
    Awake watched := by unfold Awake; decide +kernel

/-- Timer 3 of field 0 runs with PERIOD p and COUNT n from the governor's clock (SRC = 1), or from the boundaries. -/
def timer (ctl p n : BitVec 14) : Blk := setReg (aF 0 0x14C) ctl (setReg (aF 0 0x14E) p (setReg (aF 0 0x14F) n awake))

theorem witness_TimersAndDeadlines :
    Awake awake ∧ bit (reg awake (aF 7 0x14C)) 0 = false ∧ bit (reg (timer 5 1 0) (aF 0 0x14C)) 0 = true ∧
    timerRuns awake 7 3 = false ∧ timerRuns (timer 5 1 0) 0 3 = true ∧ bit (reg (timer 5 1 0) (aF 0 0x14C)) 2 = true ∧
    (reg (timer 5 1 0) (aF 0 0x14F)).toNat < (reg (timer 5 1 0) (aF 0 0x14E)).toNat ∧
    (reg (timer 5 1 1) (aF 0 0x14F)).toNat = (reg (timer 5 1 1) (aF 0 0x14E)).toNat ∧ bit (reg (timer 5 1 1) (aF 0 0x14C)) 1 = false ∧
    (reg (timer 7 1 2) (aF 0 0x14E)).toNat < (reg (timer 7 1 2) (aF 0 0x14F)).toNat ∧
    (let b := timer 1 1 0; timerRuns b 0 3 = true ∧ bit (reg b (aF 0 0x14C)) 2 = false ∧ (reg b (aF 0 0x14D)).toNat ≤ nth 0 (fieldOf b 0).pre 3) ∧
    (let b := putWord (.srcTab 0 1022) (storedWord 0x21C0) (putWord (.srcTab 0 1023) (storedWord 0x0081)
        (putSrc 0 511 { waitingSrc with st := .accum } (timer 5 1 0)))
     ((srcLive b 0 511).map fun y => (y.tsel, y.time)) = some (3, 1) ∧ (srcOf (fieldOf b 0) 511).st = .accum ∧ (srcOf (fieldOf b 0) 511).r = 1) ∧
    isOdd awake 63 = false ∧
    (let b := fieldDue id (setReg (aF 0 0x042) 1 (setReg (aE 0 0x27) 4 (setReg (aE 0 0x25) 1 (withEng (fun x => { x with dlDone := [false, false, false] }) awake))))
     (fieldOf b 0).bq = [tag1] ∧ (fieldOf b 0).pipe = [] ∧ (fieldOf b 0).fenEff = false ∧ 1 ≤ alignA b ∧ deadlineRuns b 0 3 = true ∧
     (reg b (aE 0 (0x22 + 3))).toNat ≤ 1 ∧ nth true (engOf b 0).dlDone (3 - 1) = false) := by unfold Awake; decide +kernel

/-- The smallest block writes errors back, so that its bucket leaks. -/
def leaky : Blk := withField (fun g => { g with bq := [{ tag1 with relF := 0 }], leak := 255 }) (setReg (aF 0 0x042) 1 (setReg (aF 0 0x1C6) 0x100
  { awake with cfg := { size := 0, ncomp := 4 } }))

theorem witness_LedgerAndGovernor :
    Awake awake ∧ clocked awake 7 = true ∧ Awake leaky ∧ clocked leaky 0 = true ∧ leakDue leaky 0 = true ∧ leakDue awake 0 = false ∧
    (fieldOf leaky 0).pipe = [] ∧ (fieldOf leaky 0).fenEff = false ∧ (fieldOf leaky 0).due = [] ∧ 1 ≤ alignA leaky ∧ (∀ k, k < 4 → timerRuns leaky 0 k = false) ∧
    (∀ k, k < 8 → ∀ n, n < 4 → 1 ≤ n → deadlineRuns leaky (8 * 0 + k) n = false) ∧
    awake.gov.tick < 64 ∧ modeOf awake ≠ 9 ∧ powered awake 7 = true ∧ frozen awake 9 = false ∧
    (let b := withField (fun g => { g with emod := 16 * 1024 }) { setReg (aB 0x0C0) 1 awake with gov := { tick := 64, emeas := 100, isen := true } }
     64 ≤ b.gov.tick ∧ b.gov.isen = true ∧ bit (reg b (aB 0x0C0)) 0 = true ∧ 1024 ≤ emodOf b ∧ b.gov.emeas ≠ 0) ∧
    frozen (setReg (aB 0x302) 0x200 awake) 9 = true ∧ stepField (setReg (aB 0x0DF) 0x10 awake) = some 7 ∧
    (let b := setReg (aE 0 0x20) 0x400 (stand 1 0 [] [] [] kern)
     (engOf b 0).run = some 1 ∧ engRuns b 0 = true ∧ 0 < fld (reg b (aE 0 0x20)) 10 4) ∧ (engOf awake 63).run = none ∧
    (let b := setReg (aE 0 0) 0x0801 awake
     engRuns b 0 = true ∧ pick b 0 = none ∧ (engOf b 0).run = none ∧ (engOf b 0).stepping = false ∧ (fieldOf b 0).pipe = [] ∧
     (List.range 8).all (fun k => !starvedEng (debitCycles 0 5 24 1 b) k) = true ∧ (engOf (withEng (fun x => { x with stepping := true }) b) 0).stepping = true) ∧
    engRuns awake 0 = false ∧ (fieldOf leaky 0).wrec = [] ∧ (fieldOf leaky 0).wpeer = [] ∧
    (let b := { awake with gov := { tick := 64, emeas := 0, isen := true } }
     64 ≤ b.gov.tick ∧ b.gov.isen = true ∧ frozen b 9 = false ∧ b.gov.emeas = 0) ∧ modeOf (inMode 9) = 9 := by unfold Awake; decide +kernel

theorem witness_LedgerAndGovernor_starved :
    let b := withField (fun g => { g with bal := 0 }) (setReg (aE 0 0x22) 0x15 (withEng (fun x => { x with run := none }) (stand 3 0 [] [] [] kern)))
    engRuns b 0 = true ∧ pick b 0 = none ∧ (engOf b 0).run = none ∧ starvedEng (debitCycles 0 5 24 1 b) 0 = true := by decide +kernel

theorem witness_EngineControlAndPairs : Awake awake ∧ clocked awake 7 = true ∧ isOdd awake 63 = false ∧ (engOf awake 63).lops = [] ∧
    (engOf awake 63).halted = false ∧ isTwin awake 62 = false ∧ winCtx awake 62 ≤ 4 ∧
    (executing awake 62 (winCtx awake 62) && busyIdx (winReg awake 62)) = false ∧
    (let b := setReg (aE 0 2) 0x0800 (stand 1 0 [] [] [] kern); (executing b 0 (winCtx b 0) && busyIdx (winReg b 0)) = true) ∧
    isTwin (pairBlk 62) 62 = true ∧ (engOf (pairBlk 62) 62).half = none ∧
    (let b := withEng (fun x => { x with hmNeed := 1 }) (setReg (aE 0 2) 0x0801 (stand 1 0 [] [] [] kern))
     executing b 0 (winCtx b 0) = true ∧ busyIdx (winReg b 0) = false ∧ 0 < (engOf b 0).hmNeed) ∧
    4 < winCtx (setReg (aE 62 2) 0x3800 awake) 62 ∧
    bit (twinmap awake 7) 3 = false ∧ joinFree awake 7 3 = true ∧ joinFree (setReg (aE 63 0) 0x801 awake) 7 3 = false ∧
    bit (twinmap (pairBlk 62) 7) 3 = true ∧ joinFree (pairBlk 62) 7 3 = true ∧ joinFree (setReg (aE 62 0) 0x801 (pairBlk 62)) 7 3 = false := by
  unfold Awake; decide +kernel

theorem witness_DebugHaltsAndReleases :
    let stood := stand 1 0 [] [] [] kern
    let halted := withEng (fun x => { x with halted := true }) stood
    Awake awake ∧ Awake stood ∧ 63 < nEngines awake ∧ clocked awake 7 = true ∧ isOdd awake 63 = false ∧ runBit awake 63 = false ∧
    mayDebug awake .host = true ∧ mayDebug awake .debug = false ∧ runBit stood 0 = true ∧ (engOf stood 0).mchk = false ∧
    (engOf stood 0).halted = false ∧ (engOf halted 0).halted = true ∧ runBit halted 0 = true ∧ runBit (setReg (aE 0 0) 0 halted) 0 = false ∧
    lockHeld (withEng (fun x => { x with locks := [{ ctx := 1, addrs := [1], n := 1, stored := 0, syls := 0, broken := false }] }) stood) 0 = true ∧
    haltDue awake 63 = none ∧ haltDue (withEng (fun x => { x with haltReq := some 15 }) stood) 0 = some 15 ∧ lockHeld stood 0 = false ∧
    (engOf stood 0).pairB = false ∧ (engOf stood 0).hmNeed = 0 ∧ (engOf stood 0).entry = none ∧ goesOn awake 63 = false ∧ goesOn stood 0 = true ∧
    (engOf (withEng (fun x => { x with mchk := true }) stood) 0).mchk = true ∧
    lockHeld (breakLock 0 (withEng (fun x => { x with locks := [{ ctx := 1, addrs := [1], n := 1, stored := 0, syls := 0, broken := false }] }) stood)) 0 = false ∧
    (engOf (withEng (fun x => { x with entry := some { ctx := 1, ran := false, ps := 0 } }) stood) 0).entry ≠ none := by unfold Awake; decide +kernel

def packet : TPacket := { c0 := clean 1, c1 := clean 2, c2 := clean 3, c3 := clean 4 }
def traced (ctl : BitVec 14) (q g : List TPacket) : Blk := { setReg (aB 0x305) ctl awake with trace := { Trace.empty with q := q, gather := g } }

theorem witness_TracePacketsAndFrames :
    let full := withField (fun g => { g with stimq := List.replicate 8 packet }) awake
    Awake awake ∧ clocked awake 7 = true ∧ mayDebug awake .host = true ∧ mayDebug awake .debug = false ∧
    bit (reg (setReg (aF 7 0x2A2) 8 awake) (aF 7 (0x2A0 + 31 / 14))) (31 % 14) = true ∧ bit (reg awake (aF 7 (0x2A0 + 31 / 14))) (31 % 14) = false ∧
    (fieldOf awake 7).stimq.length < 8 ∧ 8 ≤ (fieldOf full 0).stimq.length ∧ (∀ i, i < nFields awake → (fieldOf awake i).stimq = []) ∧
    trcPort (traced 1 [packet] []) = true ∧ trcFrames (traced 1 [packet] []) = false ∧ trcPort awake = false ∧
    trcFrames (traced 3 [] [packet]) = true ∧ trcPort (traced 3 [] [packet]) = true ∧ trcFrames (traced 2 [packet] []) = true ∧
    trcPort (traced 2 [packet] []) = false ∧ (traced 1 [packet] []).trace.ovf = 0 ∧ (traced 2 [packet] []).trace.gather = [] := by unfold Awake; decide +kernel

/-- Link 0 with a CTL, in a state and phase, with frames to send. -/
def idle (n : Nat) : Frame := { typ := n, dest := 0x20, src := 0x10, tag := 0, hop := 0, bc := false, pay := [] }
def linked (ctl : BitVec 14) (st phase run : Nat) (q : List Frame) (b : Blk) : Blk :=
  setReg (aB 0x182) 0x10 <| setReg (aL 0 2) (40 * 128) <| setReg (aL 0 0) ctl
    (onLink 0 (fun k => { k with st := st, phase := phase, run := run, txq := q }) b)
/-- A training word from device 0x20, in a phase. -/
def training (ph : Nat) : BitVec 64 := BitVec.ofNat 64 (4 * 2 ^ 60 + 0x20 * 2 ^ 40 + ph * 2 ^ 23 + 1 * 2 ^ 14 + 0xA5A)

theorem witness_LinksTrainAndSend :
    Awake awake ∧ 95 < nLinks awake ∧ (linkOf awake 95).quiet < 5 ∧ linkOn awake 95 = false ∧ modeOf (inMode 3) = 3 ∧ Awake (inMode 3) ∧
    rxLive (linked 1 1 0 0 [] awake) 0 = true ∧ linkLoop (linked 1 1 0 0 [] awake) 0 = false ∧ (linkOf (linked 1 1 0 0 [] awake) 0).st = 1 ∧
    rxLive (linked 5 1 0 0 [] awake) 0 = true ∧ linkLoop (linked 5 1 0 0 [] awake) 0 = false ∧ (linkOf (linked 5 1 0 0 [] awake) 0).st = 1 ∧
    (∀ ph ∈ [0, 1, 2], wKind (training ph) = 4 ∧ fld (wBody (training ph)) 0 12 = 0xA5A ∧ fld (wBody (training ph)) 23 3 = ph ∧
      (wBody (training ph)).extractLsb' 40 16 = 0x20 ∧ fld (wBody (training ph)) 14 9 ≠ 0) ∧
    ownId (linked 5 1 0 0 [] awake) ≠ 0x20 ∧ roleOf (linked 1 1 0 0 [] awake) 0 = 0 ∧ roleOf (linked 5 1 0 0 [] awake) 0 = 1 ∧
    trainN awake ≤ min 255 ((linkOf (linked 1 1 0 254 [] awake) 0).run + 1) ∧ min 255 ((linkOf (linked 1 1 0 0 [] awake) 0).run + 1) < trainN awake ∧
    (linkOf (linked 5 1 1 0 [] awake) 0).phase = 1 ∧ (linkOf (linked 5 1 2 0 [] awake) 0).phase = 2 ∧
    linkOn (linked 9 1 0 0 [] awake) 0 = true ∧ roleOf (linked 9 1 0 0 [] awake) 0 = 2 ∧
    (let b := setReg (aL 0 4) 2 (linked 5 2 0 0 [idle 6] awake)
     canSend b 0 = true ∧ linkLoop b 0 = false ∧ (linkOf b 0).txq = [idle 6] ∧ 2 + (idle 6).pay.length ≤ credOf b 0 ∧
     credOf (setReg (aL 0 4) 1 b) 0 < 2 + (idle 6).pay.length ∧ 0 < (linkOf (onLink 0 (fun k => { k with owed := 1 }) b) 0).owed) ∧
    (let b := { setReg (aB 0x18E) 1 awake with statCnt := 1 }; statusDue b = true) ∧ statusDue awake = false ∧
    5 ≤ (linkOf (onLink 95 (fun k => { k with st := 2, quiet := 5 }) awake) 95).quiet := by unfold Awake; decide +kernel

/-- A link in the middle of a frame; words of each kind; a frame whose words are in the receive buffer; the READY words after UP. -/
theorem witness_LinksTrainAndSend_open :
    let cut : Part := { frame := { hdr := mkWord 1 false (hdrBody 2 0x20 0 4 0), pay := [], trl := none }, port := none }
    let b := setReg (aF 0 0x042) 4 (withField (fun g => { g with fenEff := true }) (onLink 0 (fun k => { k with part := some cut }) (linked 1 2 0 0 [] awake)))
    (linkOf b 0).part = some cut ∧ passesMarkers (setReg (aL 0 0) 0 b) 0 = true ∧ alignOn b 0 = true ∧ rxLive b 0 = true ∧ linkLoop b 0 = false ∧
    (linkOf b 0).st = 2 ∧ wKind (mkWord 0 false 0) = 0 ∧ wKind (mkWord 5 false 0) = 5 ∧ wKind (mkWord 2 false 0) = 2 ∧ wKind (mkWord 3 false 0) = 3 ∧
    cut.frame.pay.length < payLimit b 0 ∧ wC (mkWord 2 false 0) = decide (hType (wBody cut.frame.hdr) = 3) ∧ rxLive (linked 0 0 0 0 [] awake) 0 = false ∧
    (linkOf (onLink 0 (fun k => { k with tail := true }) (linked 5 2 0 0 [idle 6] awake)) 0).tail = true ∧
    canSend (linked 9 2 0 0 [idle 6] awake) 0 = true ∧ roleOf (linked 9 2 0 0 [idle 6] awake) 0 = 2 ∧
    fld (wBody (training 3)) 23 3 = 3 ∧ 1 < trainN awake := by decide +kernel

/-- A frame of a type on its way in, with n payload words of zeros, and its trailer. -/
def wireOf (typ : Nat) (dest : BitVec 16) (pay : List (BitVec 56)) : WireFrame :=
  frameWords { typ := typ, dest := dest, src := 0x20, tag := 0, hop := 0, bc := false, pay := pay.map (fun w => (w, false)) } 0 0
/-- A RUN or RUNC of one sample. -/
def runWord : BitVec 56 := 0x00000010000000
def intake : Blk := setReg (aF 0 0x042) 4 (withField (fun g => { g with fenEff := true, cur := { g.cur with seq := 50 } }) (linked 0x001 2 0 0 [] awake))
def withC (w : WireFrame) : WireFrame := { w with pay := w.pay.map (fun x => x ||| (1 <<< 58)) }

/-- Whether a frame arrives whole and good on a link, but for its CRC; and with it. -/
def goodRest (b : Blk) (l : Nat) (w : WireFrame) (t : BitVec 64) : Bool :=
  rxLive b l && !linkLoop b l && wireShape w && decide ((linkOf b l).st = 2) && decide ((linkOf b l).quiet < 5) && (linkOf b l).part.isNone && decide (w.trl = some t) &&
  decide (w.pay.length ≤ if roleOf b l = 0 then 512 else 34) && w.pay.all (fun x => wC x == decide (hType (wBody w.hdr) = 3)) &&
  decide (linkLatency b l (hTag (wBody w.hdr)) ≤ fld (reg b (aL l 2)) 7 7) &&
  (decide ((linkOf b l).exp = none) || decide ((linkOf b l).exp = some (tSeq (wBody t)))) &&
  (decide (roleOf b l ≠ 1) || decide (credOf b l + tCredit (wBody t) ≤ 128))

theorem good_of_rest {b : Blk} {l : Nat} {w : WireFrame} {t : BitVec 64} (c : frameCrc (wBody w.hdr) (w.pay.map wBody) = tCrc (wBody t))
    (h : goodRest b l w t = true) : GoodWire b l w t := by
  unfold goodRest at h
  simp only [Bool.and_eq_true, Bool.or_eq_true, Bool.not_eq_true', decide_eq_true_eq, beq_iff_eq, List.all_eq_true, Option.isNone_iff_eq_none] at h
  obtain ⟨⟨⟨⟨⟨⟨⟨⟨⟨⟨⟨h1, h2⟩, h3⟩, h4⟩, h5⟩, hp⟩, e⟩, h6⟩, h7⟩, h8⟩, h10⟩, h11⟩ := h
  exact ⟨h1, h2, h3, h4, h5, hp, e, h6, h7, h8, c, h10, fun r => h11.resolve_left (fun n => n r)⟩

def goodB (b : Blk) (l : Nat) (w : WireFrame) : Bool :=
  match w.trl with
  | some t => decide (frameCrc (wBody w.hdr) (w.pay.map wBody) = tCrc (wBody t)) && goodRest b l w t
  | none => false

theorem good_of {b : Blk} {l : Nat} {w : WireFrame} (h : goodB b l w = true) : ∃ t, GoodWire b l w t := by
  unfold goodB at h
  split at h
  · simp only [Bool.and_eq_true, decide_eq_true_eq] at h
    exact ⟨_, good_of_rest h.1 h.2⟩
  · exact absurd h (by decide)

def intakes : List (Nat × WireFrame) := [(1, wireOf 1 0x10 []), (2, wireOf 2 0x10 [runWord, 0]), (3, withC (wireOf 3 0x10 [runWord, 0]))]

theorem witness_IntakeFramesAreAligned : ∀ x ∈ intakes, ∃ t, GoodWire intake 0 x.2 t :=
  fun x h => good_of ((by decide +kernel : ∀ x ∈ intakes, goodB intake 0 x.2 = true) x h)

theorem witness_IntakeFramesAreAligned_rest : roleOf intake 0 = 0 ∧ alignOn intake 0 = true ∧ alignA intake + 1 < sinceK0 (fieldOf intake 0) ∧
    (suspOf (fieldOf intake 0) 0).opened = none ∧ ∀ x ∈ intakes, hType (wBody x.2.hdr) = x.1 ∧
      (x.1 = 1 ∨ runLawful x.1 (x.2.pay.map wBody) = true) ∧ slotAge (fieldOf intake 0) (hTag (wBody x.2.hdr)) < alignA intake ∧
      bufWords (fieldOf intake 0) + 2 + x.2.pay.length ≤ 8192 := by decide +kernel

/-- A frame that comes A slots late, and one whose CRC is wrong. -/
theorem witness_IntakeFramesAreAligned_late_and_bad :
    (let b := withField (fun g => { g with cur := { g.cur with slot := 4, sps := 100 } }) intake
     alignA b ≤ slotAge (fieldOf b 0) (hTag (wBody (wireOf 1 0x10 []).hdr)) ∧ alignA b + 1 < sinceK0 (fieldOf b 0)) ∧
    frameCrc (wBody (wireOf 2 0x10 []).hdr) [] ≠ tCrc (wBody (mkWord 3 false 0)) := by decide +kernel

def fabric : Blk := setReg (aB 0x180) 3 (linked 0x005 2 0 0 [] awake)

def fabricFrame (typ : Nat) : WireFrame := wireOf typ 0x10 [0]
def fabricTypes : List Nat := [0, 4, 5, 6, 7, 8, 10, 11, 12, 31]

theorem witness_FabricFramesAreDelivered : ∀ typ ∈ fabricTypes, ∃ t, GoodWire fabric 0 (fabricFrame typ) t :=
  fun typ h => good_of ((by decide +kernel : ∀ typ ∈ fabricTypes, goodB fabric 0 (fabricFrame typ) = true) typ h)

/-- A STATUS frame of ten words of zeros. -/
def statusTrl : BitVec 64 := mkWord 3 false ((0xBF2F7E91 : BitVec 32) ++ (0 : BitVec 24))
def statusWire : WireFrame := { hdr := mkWord 1 false (hdrBody 0x10 0x20 0 9 0), pay := List.replicate 10 (mkWord 2 false 0), trl := some statusTrl }

theorem crc_steps : crcBody 0xFFFFFFFF (wBody statusWire.hdr &&& 0xFFFFFFFFFFFFE0) = 0xe3029cad ∧
    crcBody 0xe3029cad 0 = 0xf2d2d920 ∧
    crcBody 0xf2d2d920 0 = 0x25d6866e ∧
    crcBody 0x25d6866e 0 = 0x82391588 ∧
    crcBody 0x82391588 0 = 0x038393fa ∧
    crcBody 0x038393fa 0 = 0xbf0f64d6 ∧
    crcBody 0xbf0f64d6 0 = 0x9c37b22e ∧
    crcBody 0x9c37b22e 0 = 0x2c17ca35 ∧
    crcBody 0x2c17ca35 0 = 0x720cec33 ∧
    crcBody 0x720cec33 0 = 0xfccbe120 ∧
    crcBody 0xfccbe120 0 = 0x40d0816e := by decide +kernel

theorem crc_status : frameCrc (wBody statusWire.hdr) (statusWire.pay.map wBody) = 0xBF2F7E91 := by
  have e : statusWire.pay.map wBody = [0, 0, 0, 0, 0, 0, 0, 0, 0, 0] := by decide +kernel
  obtain ⟨h0, h1, h2, h3, h4, h5, h6, h7, h8, h9, h10⟩ := crc_steps
  simp only [frameCrc, e, List.foldl_cons, List.foldl_nil, h0, h1, h2, h3, h4, h5, h6, h7, h8, h9, h10]
  decide

theorem witness_FabricFramesAreDelivered_status : GoodWire fabric 0 statusWire statusTrl ∧ (frameOf 0 0 statusWire statusTrl).typ = 9 ∧
    (frameOf 0 0 statusWire statusTrl).bc = false ∧ (frameOf 0 0 statusWire statusTrl).dest = ownId fabric ∧
    40 ≤ (payCells (frameOf 0 0 statusWire statusTrl).pay).length ∧ fabric.stw.cmdout.length + 44 ≤ 256 :=
  ⟨good_of_rest (crc_status.trans (by decide +kernel)) (by decide +kernel), by decide +kernel⟩

/-- What else the clauses of the fabric ask for. -/
theorem witness_FabricFramesAreDelivered_rest :
    let cmd : Cmd := { cells := [], link := none, src := 0 }
    roleOf fabric 0 = 1 ∧ (∀ typ ∈ fabricTypes, (frameOf 0 0 (fabricFrame typ) 0).typ = typ ∧ (frameOf 0 0 (fabricFrame typ) 0).dest = ownId fabric ∧
      ((fabricFrame typ).trl.map fun t => tBc (wBody t)) = some false) ∧ fabric.stw.fq.length < 8 ∧ 8 ≤ (onStw (fun s => { s with fq := List.replicate 8 cmd }) fabric).stw.fq.length ∧
    fabric.stw.cmdout.length + 2 + 2 ≤ 256 ∧ 256 < (onStw (fun s => { s with cmdout := List.replicate 253 (clean 0) }) fabric).stw.cmdout.length + 2 + 2 ∧
    ((onTb (fun t => { t with hist := [(0, 5)] }) fabric).tb.hist.find? (fun e => e.1 == 0)) = some (0, 5) ∧
    bit (reg fabric (aB 0x180)) 1 = true ∧ counting fabric = true ∧ trcPort fabric = false ∧
    bit (reg (setReg (aF 0 0) 0x2000 fabric) (aF 0 0)) 13 = true ∧
    (0x1F : BitVec 16) ≠ ownId fabric ∧ (0x1F : BitVec 16).toNat / 16 = (ownId fabric).toNat / 16 ∧ bit (reg fabric (aB 0x180)) 0 = true ∧
    (let b := setReg (aL 95 0) 5 (onLink 95 (fun k => { k with st := 2 }) (setReg (aB 0x1AF) 95 fabric))
     fld (reg b (aB (0x1A0 + 0x1F % 16))) 0 7 = 95 ∧ canSend b 95 = true ∧ canSend fabric 95 = false) ∧
    (0x30 : BitVec 16).toNat / 16 ≠ (ownId fabric).toNat / 16 ∧ fabric.md.fabClear = false ∧
    rawWord { fabric with mem := [(0x210000 + 0 * 0x1000 + 0x30 / 16, storedWord 95)] } (0x210000 + 0 * 0x1000 + 0x30 / 16) = storedWord 95 ∧
    bit (reg fabric (aL 0 0)) 6 = false ∧ bit (reg (setReg (aL 0 0) 0x45 fabric) (aL 0 0)) 6 = true ∧
    (frameOf 0 0 { fabricFrame 4 with trl := some 0x100000 } (mkWord 3 true 0)).typ = 4 ∧
    alignOn fabric 0 = false ∧ fld (reg fabric (aB (0x1A0 + 0x1F % 16))) 0 7 ≠ 127 ∧ fld (reg (setReg (aB 0x1AF) 127 fabric) (aB 0x1AF)) 0 7 = 127 := by decide +kernel

/-- A steward with a packet at the head of a FIFO. -/
def asked (cells : List Nat) (b : Blk) : Blk := onStw (fun w => { w with cmdin := cells.map cleanN }) b
def byFrame (cells : List Nat) (b : Blk) : Blk := onStw (fun w => { w with fq := [{ cells := cells.map cleanN, link := some (0, 0), src := 0x20 }] }) b

theorem witness_StewardPortsAndPackets :
    let waits (n : Nat) (b : Blk) : Blk := onStw (fun w => { w with defer := List.replicate n { cmd := { cells := [], link := none, src := 0 }, op := 6, goal := 0, data := [] } }) b
    Awake awake ∧ awake.stw.cmdin.length < 256 ∧ 256 ≤ (asked (List.replicate 256 0) awake).stw.cmdin.length ∧
    bit (reg awake (aB 0x012)) 13 = false ∧ bit (reg (setReg (aB 0x012) 0x2000 awake) (aB 0x012)) 13 = true ∧ awake.stw.waiting = [] ∧
    modeOf (inMode 1) = 1 ∧ frozen (setReg (aB 0x302) 0x400 awake) 10 = true ∧ awake.stw.cur = none ∧ modeOf awake ≠ 1 ∧ frozen awake 10 = false ∧
    bit (reg awake (aB 0x142)) 0 = false ∧ bit (reg (setReg (aB 0x142) 1 awake) (aB 0x142)) 0 = true ∧
    (∀ op ∈ [0, 0x01, 0x06, 0x12, 0x13], let b := asked [op * 128, 7] awake
      (b.stw.cmdin.map fun c => c.v.toNat) = [op * 128, 7] ∧ 2 + fld (cleanN (op * 128)).v 0 7 = 2 ∧ fld (cleanN (op * 128)).v 7 7 = op ∧
      b.stw.fromFrame = false) ∧
    4 ≤ (waits 4 awake).stw.defer.length ∧ (waits 3 awake).stw.defer.length < 4 ∧
    (let b := byFrame [0x01 * 128 + 1, 7] awake
     b.stw.cmdin = [] ∧ ∀ q ∈ b.stw.fq, q.cells.length < 2 + cmdLen q ∧ cmdOp q = 1) ∧
    (let b := onMc (fun x => { x with busy := true }) awake; b.mc.busy = true) ∧ awake.mc.busy = false ∧ awake.mc.stage.length < 364 := by
  unfold Awake; decide +kernel

/-- A command in hand. -/
def packetOf (op : Nat) (ps : List Nat) : Cmd := { cells := ([op * 128 + ps.length, 7] ++ ps).map cleanN, link := none, src := 0 }
def inHand (op : Nat) (ps : List Nat) (b : Blk) : Blk := onStw (fun w => { w with cur := some (packetOf op ps) }) b
def lawful (op n : Nat) (ps : List Nat) : Bool :=
  decide ((inHand op ps awake).stw.cur = some (packetOf op ps)) && decide (cmdOp (packetOf op ps) = op) && decide (cmdLen (packetOf op ps) = n) &&
    (args (packetOf op ps)).all (fun c => !c.p)

theorem witness_StewardOpcodesAnswer :
    Awake (inHand 0x01 [] awake) ∧ (packetOf 0x01 []).want = 0 ∧ (packetOf 0x01 []).late = false ∧ (packetOf 0x01 []).got = [] ∧
    (packetOf 0x01 []).made = 0 ∧ lawful 0x01 3 [1, 2, 3] = true ∧ lawful 0x02 0 [] = true ∧
    (lawful 0x03 3 [0, 0, 1] = true ∧ rangeOk 0 127 = true ∧ argPair (packetOf 0x03 [0, 0, 1]) 0 = 0 ∧
      (∀ q ∈ span 0 127, mustWait awake (cmdMaster (packetOf 0x03 [])) q = false) ∧ isWindow 0 = false ∧ isWindow 0x1000000 = true ∧
      mayWindow (packetOf 0x03 []) awake = true) ∧
    lawful 0x04 3 [0, 0, 9] = true ∧ (lawful 0x05 5 [0, 0, 1, 0, 9] = true ∧ argPair (packetOf 0x05 [0, 0, 1, 0, 9]) 2 = 1) ∧ lawful 0x07 0 [] = true ∧
    (lawful 0x08 3 [0x2007, 0, 9] = true ∧ fld (0x2007 : BitVec 14) 11 3 = 4 ∧ fld (0x2007 : BitVec 14) 0 3 = 7 ∧ swapHeld awake 4 7 = false) ∧
    (lawful 0x0B 2 [0x0FFF, 127] = true ∧ lawful 0x0B 2 [0x100F, 126] = true) ∧ lawful 0x0D 2 [41, 1] = true ∧ lawful 0x0E 2 [41, 5] = true ∧
    (lawful 0x11 2 [0, 5] = true ∧ lawful 0x11 7 [0x2000, 1, 2, 5, 5, 5, 5] = true) ∧
    (lawful 0x12 1 [11 * 1024] = true ∧ lawful 0x12 1 [6 * 1024 + 95] = true ∧ 95 < nLinks awake ∧ lawful 0x12 1 [6 * 1024 + 512 + 95] = true) ∧
    (lawful 0x10 2 [0, 0] = true ∧ modeOf awake ≠ 2 ∧ modeOf (inMode 2) = 2) := by unfold Awake; decide +kernel

/-- An image of one record, a WRITE of one cell, read back from field memory for RESTORE. -/
theorem witness_StewardOpcodesAnswer_restore :
    let cells : List BCell := [1, 5, 0, 6, 0].map cleanN
    imageLen 0 (cells.take 3) = some 5 ∧ imageRecords (cells.map fun c => c.v) = some [] ∧ readStatus (cells.map fun c => (c, 0)) = 0 ∧
    imageRecords (([1, 5, 0, 7, 0].map cleanN).map fun c => c.v) = none := by decide +kernel

/-- Two ranges that meet, held by a deferred FILL and asked for by a READ; a cell that a locked sequence holds; a bad parameter count. -/
theorem witness_StewardOpcodesAnswer_waits :
    let fill : Deferred := { cmd := { packetOf 0x05 [0, 0, 4, 0, 9] with num := 1 }, op := 0x05, goal := 0, data := [] }
    let b := onStw (fun w => { w with defer := [fill] }) awake
    let k : LockSt := { ctx := 1, addrs := [5], n := 1, stored := 0, syls := 0, broken := false }
    rangeTaken b (packetOf 0x03 [3, 0, 1]) 3 1 = true ∧ rangeTaken b (packetOf 0x03 [4, 0, 1]) 4 1 = false ∧
    mustWait (withEng (fun x => { x with locks := [k] }) awake) (cmdMaster (packetOf 0x04 [5, 0, 9])) 5 = true ∧
    mustWait (withEng (fun x => { x with locks := [k] }) awake) (cmdMaster (packetOf 0x04 [5, 0, 9])) 4 = false ∧
    (stwWrites (packetOf 0x04 [4, 0, 9]) [(4, cleanN 9)] 0 awake).2.1 = none ∧
    (stwWrites (packetOf 0x04 [0, 15360, 9]) [(0x0F00000, absentCell)] 0 awake).2.1.isSome = true ∧
    lawful 0x06 2 [5, 5] = true ∧ (packetOf 0x01 [1]).frame = false ∧ 2 ≤ (packetOf 0x01 [1]).cells.length ∧ bit (cmdTag (packetOf 0x01 [1])) 13 = false ∧
    bit (cmdTag { packetOf 0x01 [1] with cells := [0x0081, 0x2007, 1].map cleanN }) 13 = true := by decide +kernel

def deferral (op goal : Nat) : Deferred := { cmd := packetOf op [0], op := op, goal := goal, data := [] }
def deferred (d : Deferred) (b : Blk) : Blk := onStw (fun w => { w with defer := [d] }) b

theorem witness_StewardDefersAndSettles :
    (∀ x ∈ [(0x06, 1, [5]), (0x09, 3, [0x0041, 1, 5]), (0x0A, 1, [63]), (0x0A, 1, [0x0800 + 63]), (0x0A, 2, [0x1000 + 63, 4 * 2048 + 39]),
        (0x0A, 3, [0x1800 + 63, 4 * 2048 + 39, 9]), (0x0C, 1, [0]), (0x0C, 3, [1, 7, 8]), (0x0C, 1, [2]), (0x0F, 1, [0]), (0x0F, 1, [1]),
        (0x0F, 1, [2]), (0x0F, 1, [4])], lawful x.1 x.2.1 x.2.2 = true) ∧
    Awake awake ∧ held awake 0x06 = false ∧ held (deferred (deferral 0x06 5) awake) 0x06 = true ∧
    (modeReq 5 awake).1 = true ∧ modeOf (modeReq 5 awake).2 = 5 ∧ (modeReq 6 awake).1 = false ∧
    (modeReq 5 (setReg (aF 0 0) 1 awake)).1 = true ∧ (modeReq 2 (setReg (aF 0 0) 1 awake)).1 = true ∧ modeOf (modeReq 2 (setReg (aF 0 0) 1 awake)).2 ≠ 2 ∧
    swapRefused (packetOf 0x09 [0x0041, 1, 5]) awake = none ∧ bit (0x0041 : BitVec 14) (6 + 0) = true ∧ bit (0x0041 : BitVec 14) 0 = true ∧
    swapRefused (packetOf 0x09 [0, 1, 5]) awake = some 5 ∧
    63 < nEngines awake ∧ isOdd awake 63 = false ∧ modeOf awake ≠ 9 ∧ clocked awake (63 / 8) = true ∧ (engOf awake 63).lops = [] ∧ isTwin awake 62 = false ∧
    fld (0x2027 : BitVec 14) 11 3 = 4 ∧ fld (0x2027 : BitVec 14) 0 6 = 39 ∧ (engOf awake 63).halted = false ∧ (executing awake 63 4 && busyIdx 39) = false ∧
    (executing (stand 1 0 [] [] [] kern) 0 1 && busyIdx 39) = true ∧ held awake 0x0C = false ∧ awake.mc.busy = false ∧ modeOf (inMode 2) = 2 ∧
    (let b := withField (fun g => { g with swaps := [{ kind := 0, slot := 1, sweep := 5, id := 3, reached := false }] }) (deferred (deferral 0x09 3) awake)
     b.stw.defer = [deferral 0x09 3] ∧ swapOpen b 3 = true ∧ swapUnreached b 3 = true ∧ swapOpen awake 3 = false) ∧
    (deferred (deferral 0x06 4) awake).stw.defer[0]? = some (deferral 0x06 4) ∧ awake.stw.defer[0]? = none ∧
    (onMd (fun m => { m with drainTo := some 2 }) awake).md.drainTo = some 2 := by unfold Awake; decide +kernel

/-- An engine that another deferred command holds; a STOP of an engine that runs on, and of one that does not; a stopped field; WATCH. -/
theorem witness_StewardDefersAndSettles_engines :
    let stop : Deferred := { deferral 0x0A 0 with cmd := packetOf 0x0A [63] }
    engineHeld (onStw (fun w => { w with defer := [stop] }) awake) 63 = true ∧ engineHeld awake 63 = false ∧
    engStopped awake 63 = true ∧ engStopped (stand 1 0 [] [] [] kern) 0 = false ∧
    engStopped (withEng (fun x => { x with coast := true, hmNeed := 1 }) (setReg (aE 0 0) 0 (stand 1 0 [] [] [] kern))) 0 = false ∧
    modeOf (inMode 9) = 9 ∧ clocked (withField (fun g => { g with clk := false }) awake) 0 = false ∧ isOdd (pairBlk 62) 63 = true ∧
    (let b := withEng (fun x => { x with hmNeed := 1 }) (stand 1 0 [] [] [] kern)
     executing b 0 1 = true ∧ busyIdx 8 = false ∧ 0 < (engOf b 0).hmNeed) ∧
    (deferral 0x03 0).cmd.got.length = (deferral 0x03 0).cmd.want ∧ (deferral 0x03 0).op ≠ 0x06 ∧
    ({ packetOf 0x03 [] with want := 1 } : Cmd).got.length < ({ packetOf 0x03 [] with want := 1 } : Cmd).want := by decide +kernel

/-- The top word of the last field, which holds 7, with the flip mask armed or not, and under the permission of BASE. -/
def lastWord (perm armed : BitVec 14) : Blk := setReg (aF 7 0x1C3) armed (setReg (aF 7 0x1C0) perm { awake with mem := [(0x7FFFF, storedWord 7)] })
def sintering (phase stp : Nat) : Blk := setReg (aF 0 0x1C4) 0x2100 (withField (fun g => { g with sinter := { Sinter.cold with phase := phase, stp := stp } }) awake)

theorem witness_HostPortsFieldMemoryAndSinter_ports :
    let q (m : Master) (wr : Bool) : HmReq := { m := m, a := 0x1000000, wr := wr, cells := [], two := false, dead := false }
    let asks (m : Master) (wr : Bool) : Blk := withEng (fun x => { x with hmNeed := 1 }) (onHost (fun h => { h with hm := [q m wr] }) awake)
    let lock : LockSt := { ctx := 1, addrs := [0x7FFFF], n := 1, stored := 0, syls := 0, broken := false }
    awake.md.off = false ∧ (onMd (fun m => { m with warm := true }) awake).md.warm = true ∧ awake.host.htq.length < 8 ∧
    8 ≤ (onHost (fun h => { h with htq := List.replicate 8 (0, false, none) }) awake).host.htq.length ∧ awake.md.warm = false ∧
    mustWait (onEng 63 (fun x => { x with locks := [lock] }) awake) .host 0x7FFFF = true ∧ mustWait awake .host 0x7FFFF = false ∧
    heldByAny awake 0x7FFFF = false ∧ (0 ≤ 0x7FFFE ∧ mustWait (onEng 63 (fun x => { x with locks := [lock] }) awake) .host ((0x7FFFE + 1) % 2 ^ 28) = true) ∧
    regHere awake (aB 0x048) = true ∧ atOdd awake (aB 0x048) = false ∧ wideAt (lookAt (aB 0x048) awake) (aB 0x048) = some 0 ∧
    regHere awake 0x7FFFF = false ∧ wideAt (lookAt (aB 0x188) awake) (aB 0x188) = none ∧
    clocked awake 7 = true ∧ (fieldOf awake 7).clearing = false ∧ (fieldOf awake 7).sinter.phase = 0 ∧ stuckMask awake (.fieldMem 7 0xFFFF) = 0 ∧
    permOf (lastWord 2 0) 7 0xFFFF 9 = 2 ∧ permOf (lastWord 1 0) 7 0xFFFF 9 = 1 ∧ permOf (lastWord 0 0) 7 0xFFFF 9 = 0 ∧
    rawWord (lastWord 1 0) (7 * 0x10000 + 0xFFFF) = storedWord 7 ∧ (fieldOf (lastWord 2 0) 7).lastA = none ∧
    (fieldOf (onField 7 (fun g => { g with lastA := some (0xFFFF, clean 8) }) (lastWord 2 0)) 7).lastA = some (0xFFFF, clean 8) ∧
    normCell (clean 8) ≠ normCell (clean 7) ∧
    bit (reg (lastWord 2 0) (aF 7 0x1C3)) 13 = false ∧ bit (reg (lastWord 2 0x2001) (aF 7 0x1C3)) 13 = true ∧
    0 < (onHost (fun h => { h with drop := 1 }) awake).host.drop ∧ awake.host.drop = 0 ∧ awake.host.hm = [] ∧
    (∀ m ∈ [Master.engine 0, .host, .steward, .linkDma, .debug], ∀ wr ∈ [true, false], (asks m wr).host.hm = q m wr :: []) ∧
    (engOf (asks (.engine 0) false) 0).hmNeed ≠ 0 ∧ (engOf awake 0).hmNeed = 0 := by decide +kernel

theorem witness_HostPortsFieldMemoryAndSinter_sinter :
    let lock (a : Nat) : LockSt := { ctx := 1, addrs := [a], n := 1, stored := 0, syls := 0, broken := false }
    let holds (a : Nat) (b : Blk) : Blk := withEng (fun x => { x with locks := [lock a] }) b
    let word (w : BitVec 20) : Blk := setReg (aF 7 0x1C4) 0x2000 { awake with mem := [(0xBFFFF, w)] }
    (fieldOf awake 7).wback = none ∧ (fieldOf (withField (fun g => { g with wback := some (0, 7) }) awake) 0).wback = some (0, 7) ∧
    frozen (setReg (aB 0x302) 0x80 awake) 7 = true ∧ frozen awake 0 = false ∧ bit (reg awake (aF 7 0x1C4)) 13 = false ∧
    (let b := sintering 0 0; bit (reg b (aF 0 0x1C4)) 13 = true ∧ scanned b 0 0 = true ∧ blockHeld b 0 0 = false ∧
     ((List.range (2048 - 0)).map (fun i => 0 + i) ++ List.range 0).find? (scanned b 0) = some 0) ∧
    (let b := withField (fun g => { g with sinter := { g.sinter with block := 2047 } }) (setReg (aF 0 0x200) 0 (setReg (aF 0 0x201) 0
        (setReg (aF 0 0x203) 0x2200 (setReg (aF 0 0x1C0) 0 (sintering 0 0)))))
     ((List.range (2048 - 2047)).map (fun i => 2047 + i) ++ List.range 2047).find? (scanned b 0) = some 0) ∧
    blockHeld (holds 31 (sintering 0 0)) 0 0 = true ∧ stepHeld (holds 8 (sintering 1 1)) 0 0 1 = true ∧ stepHeld (sintering 1 1) 0 0 1 = false ∧
    stepHeld (holds 24 (sintering 2 39)) 0 0 (marchGroup 39) = true ∧ stepHeld (sintering 2 39) 0 0 (marchGroup 39) = false ∧
    stepHeld (holds 24 (sintering 3 3)) 0 0 3 = true ∧ stepHeld (sintering 3 3) 0 0 3 = false ∧
    (∀ k ∈ [0, 1, 3], (fieldOf (sintering 1 k) 0).sinter.phase = 1 ∧ (fieldOf (sintering 1 k) 0).sinter.stp = k) ∧
    (fieldOf (sintering 2 39) 0).bad = [] ∧ marchFault (sintering 2 39) 0 = false ∧
    (let b := withField (fun g => { g with bad := (List.range 32).map (fun i => (i, 1)) }) (sintering 2 12)
     marchFault b 0 = true ∧ (fieldOf b 0).sinter.cancelled = false ∧ (fieldOf b 0).sinter.faulted = false) ∧
    (fieldOf (sintering 3 3) 0).sinter.stp ≤ 3 ∧
    (let b := sintering 3 3; (fieldOf b 0).sinter.tries + 1 < max 1 (fld (reg (setReg (aF 0 0x1C4) 0x2300 b) (aF 0 0x1C4)) 8 2) ∧
     max 1 (fld (reg b (aF 0 0x1C4)) 8 2) ≤ (fieldOf b 0).sinter.tries + 1) ∧
    maintMem awake 7 0x7FFFF = none ∧ maintMem (word 0) 7 0xBFFFF = some (.codeStore 63 0xFFF) ∧ maintWay (word 1) 7 0xBFFFF = [] ∧
    bit (reg (word 1) (aF 7 0x1C4)) 13 = true ∧ stuckMask (word 1) (.codeStore 63 0xFFF) = 0 ∧
    (eccDecode (rawWord (word (storedWord 5)) 0xBFFFF)).cls = .clean ∧
    (eccDecode (rawWord (word (storedWord 5 ^^^ 1)) 0xBFFFF)).cls = .correctable := by decide +kernel

/-- The debug island with a data register selected, at a level, with an access launched. -/
def island (ir : BitVec 5) (level : Nat) (pend : Option (Nat × BCell)) (a : Nat) (b : Blk) : Blk :=
  { b with auth := { b.auth with level := level }, tap := { b.tap with ir := ir, acc := { b.tap.acc with pend := pend, addr := a } } }

theorem witness_DebugIslandAnswers :
    let off := onMd (fun m => { m with off := true }) awake
    let rd : Option (Nat × BCell) := some (1, clean 0)
    let wr : Option (Nat × BCell) := some (2, clean 5)
    (∀ n ∈ [0x01, 0x02, 0x08, 0x09, 0x0A], (island (BitVec.ofNat 5 n) 0 none 0 awake).tap.ir.toNat = n) ∧
    awake.auth.lockout = false ∧ awake.auth.barred = false ∧ awake.auth.key = none ∧ Blk.reset.md.fuseWait = true ∧
    awake.md.off = false ∧ awake.md.fuseWait = false ∧ (∀ i, i < 19 → bit (nth 0x4000 (List.replicate 19 (0 : BitVec 15)) i) 14 = false) ∧
    bit (nth 0x4000 ([] : List (BitVec 15)) 18) 14 = true ∧
    (island 0x0A 2 rd 0 awake).tap.acc.pend ≠ none ∧ (island 0x0A 2 none 0 awake).tap.acc.pend = none ∧ (island 0x0A 2 none 0 awake).auth.level = 2 ∧
    (island 0x0A 1 none 0 awake).auth.level = 1 ∧ (island 0x0A 0 none 0 awake).auth.level = 0 ∧
    (island 0x0A 2 rd (aB 0x400) off).md.off = true ∧ (island 0x0A 2 rd (aB 0) off).tap.acc.addr = aB 0x000 ∧
    (onMd (fun m => { m with dark := true }) awake).md.dark = true ∧ awake.md.dark = false ∧ (island 0x0A 2 wr (aB 0x3FF) off).tap.acc.addr = aB 0x3FF ∧
    (island 0x0A 2 (some (4, clean 5)) 0x1000000 awake).tap.acc.pend = some (2 + 2, clean 5) ∧
    mustWait (onEng 63 (fun x => { x with locks := [{ ctx := 1, addrs := [0x7FFFF], n := 1, stored := 0, syls := 0, broken := false }] }) awake) .debug 0x7FFFF = true ∧
    regHere (island 0x0A 2 wr (aB 0x305) awake) (aB 0x305) = true ∧ 0x2A0 ≤ aF 7 0x2A2 % 0x1000 ∧ aF 7 0x2A2 % 0x1000 < 0x2A3 ∧
    (onMd (fun m => { m with warm := true }) awake).md.warm = true ∧ (island 0x0A 2 rd 0x1000000 awake).tap.acc.addr = 0x1000000 ∧
    readsAct (island 0x0A 2 rd (aB 0x305) awake) .debug = false ∧
    readsAct (island 0x0A 2 rd (aB 0x305) (setReg (aB 0x300) 0xC awake)) .debug = true ∧ (island 0x0A 2 wr (aB 0x305) awake).tap.acc.pend = some (2, clean 5) ∧
    mustWait awake .debug 0x7FFFF = false ∧ clocked awake 7 = true ∧ (fieldOf awake 7).clearing = false ∧ (fieldOf awake 7).sinter.phase = 0 ∧
    permOf (lastWord 0 0) 7 0xFFFF 10 = 0 ∧ permOf (lastWord 1 0) 7 0xFFFF 10 = 1 ∧ permOf (lastWord 2 0) 7 0xFFFF 10 = 2 ∧
    rawWord (lastWord 1 0) 0x7FFFF = storedWord 7 ∧ stuckMask awake (.fieldMem 7 0xFFFF) = 0 ∧ bit (reg (lastWord 2 0) (aF 7 0x1C3)) 13 = false := by
  decide +kernel

theorem witness_StepRunsTheFrontCommand : State.reset.pending = [] ∧ (onMd (fun m => { m with off := true }) Blk.reset).md.off = true ∧
    actsInReset .marker = false := by decide +kernel

theorem witness_AuthenticationStaysLegalAndEarned : Auth.Legal State.reset.blk.auth ∧ (match step { State.reset with pending := [.marker] } with | .next _ => true | _ => false) = true ∧
    actsOnAuth .marker = false := ⟨⟨by decide, by decide, by decide, by decide, by decide⟩, by decide +kernel, by decide⟩

/-! Ill-formed terms: each check of WellFormed refuses one, and takes the last one in its range. -/

theorem test_ill_formed_units :
    WellFormed.okF 2 2 = false ∧ WellFormed.okF 2 1 = true ∧ WellFormed.okE 2 16 = false ∧ WellFormed.okE 2 15 = true ∧
    WellFormed.okL 2 24 = false ∧ WellFormed.okL 2 23 = true ∧ WellFormed.okM 2 (.engine 16) = false ∧ WellFormed.okM 2 .debug = true := by decide

theorem test_ill_formed_operands :
    WellFormed.okLt 8 8 = false ∧ WellFormed.okLt 8 7 = true ∧ WellFormed.okDl 0 = false ∧ WellFormed.okDl 4 = false ∧ WellFormed.okDl 3 = true ∧
    WellFormed.okA (2 ^ 28) = false ∧ WellFormed.okA (2 ^ 28 - 1) = true ∧ WellFormed.okTemps 8 [0, 0] = false ∧
    WellFormed.okKey [] = false ∧ WellFormed.okCells (List.replicate 3 (clean 0)) = false ∧ WellFormed.okCells [] = true ∧
    WellFormed.okRecord [] = false ∧ WellFormed.okW { hdr := 0, pay := [], trl := none } = false ∧
    WellFormed.okW { hdr := 0x1000000000000000, pay := [], trl := some 0 } = false := by decide +kernel

theorem test_ill_formed_commands :
    WellFormed.wellFormed 8 (.ld 64) = false ∧ WellFormed.wellFormed 8 (.ld 63) = true ∧ WellFormed.wellFormed 2 (.dispatch 2) = false ∧
    WellFormed.wellFormed 8 (.capture 8 true) = false ∧ WellFormed.wellFormed 8 (.deadlineExpire 0 0) = false := by decide

/-! Worked numbers of the manual. -/

/-- What engine 0's C1 has on its data stack, and which of C, V, DZ and DV it has, after a command. -/
def leftBy (i : Instr) (b : Blk) : Option (List Nat × Nat) :=
  match exec i ⟨b, []⟩ with
  | .next t => some ((ctxOf t.blk 0 1).data.map (fun x => x.v.toNat), fld (ctxOf t.blk 0 1).ps 1 4)
  | _ => none
/-- The results and flags of the long operation that it issues; the float results and FSTATUS flags. -/
def issuedBy (i : Instr) (b : Blk) : Option (List (List Nat)) :=
  match exec i ⟨b, []⟩ with
  | .next t => (engOf t.blk 0).lops.head?.map (fun o => [o.res.map (fun r => r.1.toNat), o.fres.map (fun r => r.1.toNat), [fld o.psVal 1 4, o.fl.toNat]])
  | _ => none

/-- R259: a row of the table: a, b, C in; the result, C and V as one number (C 1, V 2). -/
def row (id : Nat) (i : Nat → Instr) (a b : BitVec 28) (c : Nat) : Option (List Nat × Nat) :=
  leftBy (i 0) (stand 1 (cellOf id) [sc b, sc a] [] [] (BitVec.ofNat 14 (0x2000 + 2 * c)))

theorem test_sums_of_R259 :
    row 0x10 .add 0x1FFF 1 0 = some ([0x2000], 2) ∧ row 0x10 .add 0x3FFF 1 0 = some ([0], 1) ∧ row 0x11 .sub 0x1FFF 0x3FFF 0 = some ([0x2000], 3) ∧
    row 0x12 .adc 0x3FFF 0 1 = some ([0], 1) ∧ row 0x13 .sbc 0 0x3FFF 1 = some ([0], 1) := by decide +kernel

theorem test_clamps_of_R259 :
    row 0x2A .satadd 0x1FFF 1 0 = some ([0x1FFF], 2) ∧ row 0x2B .satsub 0x2000 1 0 = some ([0x2000], 2) ∧
    row 0x2E .mullo 0x0100 0x0040 0 = some ([0], 2) ∧ row 0x2E .mullo 0x3FFF 0x3FFF 0 = some ([1], 0) := by decide +kernel

/-- R265: r is pushed first and q above it. DZ is 4 and V is 2. -/
def divides (id : Nat) (i : Nat → Instr) (n d : BitVec 28) : Option (List (List Nat)) := issuedBy (i 0) (at_ id [sc d, sc n] [])

theorem test_divisions_of_R265 :
    divides 0x52 .div 0x3FF9 2 = some [[0x3FFF, 0x3FFD], [], [0, 0]] ∧ divides 0x52 .div 7 0x3FFE = some [[1, 0x3FFD], [], [0, 0]] ∧
    divides 0x52 .div 0x3FFB 0 = some [[0x3FFB, 0x2000], [], [4, 0]] ∧ divides 0x52 .div 0x2000 0x3FFF = some [[0, 0x2000], [], [2, 0]] ∧
    divides 0x53 .divu 0x3FFF 0 = some [[0x3FFF, 0x3FFF], [], [4, 0]] := by decide +kernel

/-- R273: C is 1 and DV is 8. -/
theorem test_digits_of_R273 :
    divides 0x54 .dadd 0x0999 1 = some [[0], [], [1, 0]] ∧ divides 0x55 .dsub 0 1 = some [[0x0999], [], [1, 0]] ∧
    divides 0x54 .dadd 0x00A0 1 = some [[0x3FFF], [], [8, 0]] := by decide +kernel

/-- R287: the flags are X 1, U 2, O 4, Z 8 and I 16; a rounding mode is PS bits 10:9. -/
def floats2 (id : Nat) (i : Nat → Instr) (rm : Nat) (a b : BitVec 28) : Option (List (List Nat)) :=
  issuedBy (i 0) (stand 1 (cellOf id) [] [] [sc b, sc a] (BitVec.ofNat 14 (0x2800 + 512 * rm)))

theorem test_floats_of_R287 :
    floats2 0x56 .fadd 0 0x1EFF 0x1EFF = some [[], [0x1F00], [0, 5]] ∧ floats2 0x56 .fadd 1 0x1EFF 0x1EFF = some [[], [0x1EFF], [0, 5]] ∧
    floats2 0x57 .fsub 3 0x1EFF 0x1EFF = some [[], [0x2000], [0, 0]] ∧ floats2 0x58 .fmul 2 1 1 = some [[], [1], [0, 3]] ∧
    floats2 0x59 .fdiv 0 0x1EFF 0 = some [[], [0x1F00], [0, 8]] ∧ floats2 0x5E .fmin 0 1 0x2001 = some [[], [0x2001], [0, 0]] := by decide +kernel

/-- R108: 1,000 encodes as 0x1FA, which decodes to 1,002. -/
theorem test_compander_of_R108 : compandOf 1000 = 0x1FA ∧ expandOf 0x1FA = 1002 := by decide +kernel

/-- R106: the IDLE frame of the manual's example. -/
theorem test_crc_of_R106 :
    frameWords { typ := 0, dest := 0x1235, src := 0x1234, tag := 0x100, hop := 0, bc := false, pay := [] } 7 3 =
      { hdr := 0x1012351234040000, pay := [], trl := some 0x305BFAC74F001C03 } := by decide +kernel

/-- R407: the cell 0x2001 is stored as the word 0x8A001. -/
theorem test_check_code_of_R407 : storedWord 0x2001 = 0x8A001 ∧ (eccDecode 0x8A001).cell = clean 0x2001 := by decide +kernel

/-- A store reaches the buffer, and a second command finds the block asleep while PORESET_N is asserted. -/
theorem test_store_is_buffered : (match exec (.st 0) ⟨at_ 0x31 [sc 0x1010, sc 7] [], []⟩ with
    | .next t => (engOf t.blk 0).sbuf.map (fun x => x.ws)
    | _ => []) = [[(0x10, clean 7)]] := by decide +kernel

/-- Bring-up from reset, one step: the fuse load with no fuses leaves CAL at its defaults. -/
theorem test_fuses_absent : (match exec (.fuseLoadComplete false []) State.reset with
    | .next t => (t.blk.md.fuseWait, reg t.blk (aB 0x12A))
    | _ => (true, 0)) = (false, 1) := by decide +kernel

/-- The event frame holds LV, PS and PC, with LV bit 12 clear for a READY context. -/
theorem test_event_entry : (match exec (.eventEntry 0) ⟨eventful, []⟩ with
    | .next t => ((ctxOf t.blk 0 1).ret.map (fun x => x.v.toNat), (ctxOf t.blk 0 1).data.map (fun x => x.v.toNat), (ctxOf t.blk 0 1).pc.toNat)
    | _ => ([], [], 0)) = ([0, 0x3000, 0], [1 * 512 + 511, 5, 6, 7], 0) := by decide +kernel

/-- The cell 3 is stored with two set bits, so that a flip of one of them leaves one; that of 0 keeps more. -/
theorem witness_SingleErrorsAreCorrectedDoubleErrorsDetected :
    ones (storedWord 3 ^^^ ((1 : BitVec 20) <<< 0)) = 1 ∧ ones (storedWord 0 ^^^ ((1 : BitVec 20) <<< 19)) ≠ 1 := by decide +kernel

end Sys2Proof.Tests
end

section
/-! The read of a register, register by register: which addresses are LO registers of latched pairs (`wideAt`) and which clear on
reading (`isRc`), what a look changes (`lookAt`), and what the side effect (`regSide`) and the value (`regValue`) come down to
at one register. -/

namespace Sys2Proof.Machine

variable {b : Blk} {m : Master} {a : Nat}

/-! Register addresses (R557). -/

theorem isRegAddr_aB {off : Nat} (h : off < 0x1000) : isRegAddr (aB off) = true := by
  unfold isRegAddr aB; rw [decide_eq_true (by omega), decide_eq_true (by omega)]; rfl

theorem isRegAddr_aF {f off : Nat} (hf : f < 8) (h : off < 0x1000) : isRegAddr (aF f off) = true := by
  unfold isRegAddr aF; rw [decide_eq_true (by omega), decide_eq_true (by omega)]; rfl

theorem isRegAddr_aE {e off : Nat} (he : e < 64) (h : off < 0x40) : isRegAddr (aE e off) = true := by
  unfold isRegAddr aE; rw [decide_eq_true (by omega), decide_eq_true (by omega)]; rfl

/-- An address of the field units is a register of one of the eight fields. -/
theorem eq_aF_of_range (h1 : 0x0F10000 ≤ a) (h2 : a < 0x0F18000) :
    ∃ f off, f < 8 ∧ off < 0x1000 ∧ a % 0x1000 = off ∧ a = aF f off :=
  ⟨(a - 0x0F10000) / 0x1000, a % 0x1000, by omega, by omega, rfl, by unfold aF; omega⟩

/-- An address of the engine units is a register of one of the 64 engines. -/
theorem eq_aE_of_range (h1 : 0x0F20000 ≤ a) (h2 : a < 0x0F21000) :
    ∃ e off, e < 64 ∧ off < 0x40 ∧ a % 0x40 = off ∧ a = aE e off :=
  ⟨(a - 0x0F20000) / 0x40, a % 0x40, by omega, by omega, rfl, by unfold aE; omega⟩

theorem atOdd_lt (h : a < 0x0F20000) : atOdd b a = false := by
  unfold atOdd; rw [decide_eq_false (by omega)]; rfl

theorem atOdd_aE {e off : Nat} (he : e < 64) (h : off < 0x40) : atOdd b (aE e off) = isOdd b e := by
  unfold atOdd aE
  rw [decide_eq_true (by omega), decide_eq_true (by omega),
    show (0x0F20000 + e * 0x40 + off - 0x0F20000) / 0x40 = e by omega]
  rfl

/-! Wide registers (R68): the nine LO registers, and the registers next to them. -/

/-- Every LO register of a latched pair. -/
theorem wideAt_some {v : BitVec 28} (h : wideAt b a = some v) :
    (∃ off, (off = 0x046 ∨ off = 0x048 ∨ off = 0x1C5) ∧ a = aB off) ∨
    (∃ f off, f < 8 ∧ (off = 0x180 ∨ off = 0x18A ∨ off = 0x18C) ∧ a = aF f off) ∨
    (∃ e, e < 64 ∧ a = aE e 0x0E) := by
  unfold wideAt at h
  split at h
  next h1 => exact .inl ⟨_, .inl rfl, h1⟩
  split at h
  next h1 => exact .inl ⟨_, .inr (.inl rfl), h1⟩
  split at h
  next h1 => exact .inl ⟨_, .inr (.inr rfl), h1⟩
  split at h
  next h1 =>
    obtain ⟨f, off, hf, -, ho, rfl⟩ := eq_aF_of_range h1.1 h1.2
    refine .inr (.inl ⟨f, off, hf, ?_, rfl⟩)
    dsimp only at h
    rw [ho] at h
    split at h
    · exact .inl ‹_›
    split at h
    · exact .inr (.inl ‹_›)
    split at h
    · exact .inr (.inr ‹_›)
    · cases h
  split at h
  next h1 =>
    obtain ⟨e, off, he, -, ho, rfl⟩ := eq_aE_of_range h1.1 h1.2.1
    exact .inr (.inr ⟨e, he, by rw [← ho, h1.2.2]⟩)
  · cases h

theorem wideAt_aB {off : Nat} (h : off < 0x1000) (hn : off ≠ 0x046 ∧ off ≠ 0x048 ∧ off ≠ 0x1C5) :
    wideAt b (aB off) = none := by
  cases hw : wideAt b (aB off) with
  | none => rfl
  | some v =>
    rcases wideAt_some hw with ⟨o, ho, he⟩ | ⟨f, o, hf, ho, he⟩ | ⟨e, he, he'⟩ <;> simp only [aB, aF, aE] at * <;> omega

theorem wideAt_aF {f off : Nat} (hf : f < 8) (h : off < 0x1000) (hn : off ≠ 0x180 ∧ off ≠ 0x18A ∧ off ≠ 0x18C) :
    wideAt b (aF f off) = none := by
  cases hw : wideAt b (aF f off) with
  | none => rfl
  | some v =>
    rcases wideAt_some hw with ⟨o, ho, he⟩ | ⟨g, o, hg, ho, he⟩ | ⟨e, he, he'⟩ <;> simp only [aB, aF, aE] at * <;> omega

theorem wideAt_aE {e off : Nat} (he : e < 64) (h : off < 0x40) (hn : off ≠ 0x0E) : wideAt b (aE e off) = none := by
  cases hw : wideAt b (aE e off) with
  | none => rfl
  | some v =>
    rcases wideAt_some hw with ⟨o, ho, he'⟩ | ⟨g, o, hg, ho, he'⟩ | ⟨i, hi, he'⟩ <;> simp only [aB, aF, aE] at * <;> omega

/-! Registers that a read clears (R17). -/

theorem isRc_aF {f off : Nat} (hf : f < 8) (h : off < 0x1000) :
    isRc (aF f off) = ((fieldRow off).map RegD.rc).getD false := by
  unfold isRc; rw [regRow_aF hf h]; cases fieldRow off <;> rfl

theorem isRc_aE {e off : Nat} (he : e < 64) (h : off < 0x40) :
    isRc (aE e off) = ((regFind engRegs off).map RegD.rc).getD false := by
  unfold isRc; rw [regRow_aE he h]; cases regFind engRegs off <;> rfl

/-- No register that clears on reading is the LO register of a latched pair. -/
theorem wideAt_rc (h : isRc a = true) : wideAt b a = none := by
  cases hw : wideAt b a with
  | none => rfl
  | some v =>
    rcases wideAt_some hw with ⟨o, rfl | rfl | rfl, rfl⟩ | ⟨f, o, hf, rfl | rfl | rfl, rfl⟩ | ⟨e, he, rfl⟩
    iterate 3 exact absurd h (by decide)
    iterate 3 rw [isRc_aF hf (by decide)] at h; exact absurd h (by decide)
    rw [isRc_aE he (by decide)] at h; exact absurd h (by decide)

/-- A register that clears on reading is no block register that does not. -/
theorem rc_ne_aB {off : Nat} (h : isRc a = true) (hr : isRc (aB off) = false) : a ≠ aB off := by
  rintro rfl; rw [hr] at h; cases h

/-- A register that clears on reading is no CAPkSLOT (R73). -/
theorem rc_not_capslot (h : isRc a = true) : ¬ (0x0F00060 ≤ a ∧ a < 0x0F00080 ∧ a % 4 = 0) := by
  rintro ⟨h1, h2, h3⟩
  obtain ⟨k, hk, rfl⟩ : ∃ k, k < 8 ∧ a = aB (0x060 + 4 * k) := ⟨(a - 0x0F00060) / 4, by omega, by unfold aB; omega⟩
  have hn : ∀ k, k < 8 → isRc (aB (0x060 + 4 * k)) = false := by decide
  rw [hn k hk] at h
  cases h

/-- A register that clears on reading is no EVCLAIMk (R346). -/
theorem rc_not_evclaim (h : isRc a = true) :
    ¬ (0x0F10000 ≤ a ∧ a < 0x0F18000 ∧ 0x110 ≤ a % 0x1000 ∧ a % 0x1000 < 0x118) := by
  rintro ⟨h1, h2, h3, h4⟩
  obtain ⟨f, off, hf, ho, hm, rfl⟩ := eq_aF_of_range h1 h2
  have hn : ∀ k, k < 8 → ((fieldRow (0x110 + k)).map RegD.rc).getD false = false := by decide
  rw [isRc_aF hf ho, show off = 0x110 + (off - 0x110) by omega, hn _ (by omega)] at h
  cases h

/-- A register that clears on reading is no CTXDATA (R211). -/
theorem rc_not_ctxdata (h : isRc a = true) : ¬ (0x0F20000 ≤ a ∧ a < 0x0F21000 ∧ a % 0x40 = 0x03) := by
  rintro ⟨h1, h2, h3⟩
  obtain ⟨e, off, he, ho, hm, rfl⟩ := eq_aE_of_range h1 h2
  rw [isRc_aE he ho, ← hm, h3] at h
  exact absurd h (by decide)

/-! A look at a register before it is read (R362). -/

theorem lookAt_ne (h : a ≠ aB 0x1C5) : lookAt a b = b := if_neg h

/-- A look changes the slow count and the free numbers used alone. -/
theorem lookAt_eq (a : Nat) (b : Blk) : ∃ d n, lookAt a b = { b with md := d, free := n } := by
  unfold lookAt sleepOn
  split
  · split
    · exact ⟨_, _, rfl⟩
    · exact ⟨_, _, rfl⟩
  · exact ⟨_, _, rfl⟩

@[simp] theorem regHere_lookAt (c : Nat) : regHere (lookAt a b) c = regHere b c := by
  obtain ⟨d, n, h⟩ := lookAt_eq a b; rw [h]; rfl

@[simp] theorem atOdd_lookAt (c : Nat) : atOdd (lookAt a b) c = atOdd b c := by
  obtain ⟨d, n, h⟩ := lookAt_eq a b; rw [h]; rfl

@[simp] theorem readsAct_lookAt (m : Master) : readsAct (lookAt a b) m = readsAct b m := by
  obtain ⟨d, n, h⟩ := lookAt_eq a b; rw [h]; cases m <;> rfl

theorem wideAt_isSome_lookAt {v : BitVec 28} (h : wideAt (lookAt a b) a = some v) : (wideAt b a).isSome = true := by
  by_cases ha : a = aB 0x1C5
  · subst ha; rfl
  · rw [lookAt_ne ha] at h; rw [h]; rfl

theorem lookAt_of_wideAt_none (h : wideAt b a = none) : lookAt a b = b := by
  refine lookAt_ne ?_
  rintro rfl
  cases h

/-- A register where no unit answers is no block register. -/
theorem ne_aB_of_absent {off : Nat} (h : regHere b a = false) (ho : off < 0x1000) : a ≠ aB off := by
  rintro rfl; rw [regHere_aB b ho] at h; cases h

/-! The side effect of a read, register by register. -/

theorem regSide_absent (h : regHere b a = false) : regSide m a b = b := if_pos (.inl h)

theorem regSide_wide {v : BitVec 28} (hh : regHere b a = true) (ho : atOdd b a = false) (hw : wideAt b a = some v) :
    regSide m a b = setLatch m (a + 1) (hi14 v) b := by
  unfold regSide; rw [hh, ho, hw]; rfl

/-- Where no pair is latched, the effect is that of the register itself. -/
theorem regSide_narrow (hh : regHere b a = true) (ho : atOdd b a = false) (hw : wideAt b a = none) : regSide m a b =
    if a = aB 0x011 then onStw (fun w => { w with cmdout := w.cmdout.drop 1 }) b
    else if 0x0F00060 ≤ a ∧ a < 0x0F00080 ∧ a % 4 = 0 then (capslotRead ((a - 0x0F00060) / 4) b).2
    else if 0x0F10000 ≤ a ∧ a < 0x0F18000 ∧ 0x110 ≤ a % 0x1000 ∧ a % 0x1000 < 0x118 then
      (evClaim ((a - 0x0F10000) / 0x1000) (a % 0x1000 - 0x110) b).2
    else if 0x0F20000 ≤ a ∧ a < 0x0F21000 ∧ a % 0x40 = 0x03 then ctxDataRead ((a - 0x0F20000) / 0x40) b
    else if isRc a && !(isTbReg a && nobclk b) then setReg a 0 b else b := by
  unfold regSide isRc
  rw [if_neg (by simp [hh, ho]), hw]
  cases regRow a <;> simp

theorem regSide_rc (hh : regHere b a = true) (ho : atOdd b a = false) (h : isRc a = true) :
    regSide m a b = if isTbReg a && nobclk b then b else setReg a 0 b := by
  rw [regSide_narrow hh ho (wideAt_rc h), if_neg (rc_ne_aB h (by decide)), if_neg (rc_not_capslot h),
    if_neg (rc_not_evclaim h), if_neg (rc_not_ctxdata h), h]
  cases isTbReg a && nobclk b <;> rfl

theorem regSide_cmdout : regSide m (aB 0x011) b = onStw (fun w => { w with cmdout := w.cmdout.drop 1 }) b := by
  rw [regSide_narrow (regHere_aB b (by decide)) (atOdd_lt (by decide)) (wideAt_aB (by decide) (by decide)), if_pos rfl]

theorem regSide_capslot {k : Nat} (hk : k < 8) : regSide m (aB (0x060 + 4 * k)) b = (capslotRead k b).2 := by
  rw [regSide_narrow (regHere_aB b (by omega)) (atOdd_lt (by unfold aB; omega)) (wideAt_aB (by omega) (by omega))]
  unfold aB
  rw [if_neg (by omega), if_pos (by omega), show (0x0F00000 + (0x060 + 4 * k) - 0x0F00060) / 4 = k by omega]

theorem regSide_evclaim {f k : Nat} (hf : f < 8) (hk : k < 8) (hc : clocked b f = true) :
    regSide m (aF f (0x110 + k)) b = (evClaim f k b).2 := by
  rw [regSide_narrow (by rw [regHere_aF b hf (by omega), hc]) (atOdd_lt (by unfold aF; omega))
    (wideAt_aF hf (by omega) (by omega))]
  unfold aB aF
  rw [if_neg (by omega), if_neg (by omega), if_pos (by omega),
    show (0x0F10000 + f * 0x1000 + (0x110 + k) - 0x0F10000) / 0x1000 = f by omega,
    show (0x0F10000 + f * 0x1000 + (0x110 + k)) % 0x1000 - 0x110 = k by omega]

theorem regSide_ctxdata {e : Nat} (he : e < 64) (hc : clocked b (fldOf e) = true) (ho : isOdd b e = false) :
    regSide m (aE e 0x03) b = ctxDataRead e b := by
  rw [regSide_narrow (by rw [regHere_aE b he (by decide), hc]) (by rw [atOdd_aE he (by decide), ho])
    (wideAt_aE he (by decide) (by decide))]
  unfold aB aE
  rw [if_neg (by omega), if_neg (by omega), if_neg (by omega), if_pos (by omega),
    show (0x0F20000 + e * 0x40 + 0x03 - 0x0F20000) / 0x40 = e by omega]

/-! A whole read. -/

/-- A read by a master whose reads do not act only looks (R19, R535). -/
theorem regRead_idle (h : readsAct b m = false) : (regRead m a b).2 = lookAt a b := by
  unfold regRead; simp [h]

/-- A read that acts, at a register other than CMDOUT. -/
theorem regRead_acts (h : readsAct b m = true) (ha : a ≠ aB 0x011) : (regRead m a b).2 = regSide m a (lookAt a b) := by
  unfold regRead; simp [h, ha]

/-- A read that acts, at CMDOUT with no reply waiting for room (R452). -/
theorem regRead_cmdout (h : readsAct b m = true) (hw : b.stw.waiting = []) :
    (regRead m (aB 0x011) b).2 = onStw (fun w => { w with cmdout := w.cmdout.drop 1 }) b := by
  have hl : lookAt (aB 0x011) b = b := lookAt_ne (by decide)
  unfold regRead
  simp [hl, h, hw, replyFlush, regSide_cmdout]

/-- A read where no unit answers has no effect (R494). -/
theorem regRead_absent (h : regHere b a = false) : (regRead m a b).2 = b := by
  have hl : lookAt a b = b := lookAt_ne (ne_aB_of_absent h (by decide))
  cases hr : readsAct b m with
  | false => rw [regRead_idle hr, hl]
  | true => rw [regRead_acts hr (ne_aB_of_absent h (by decide)), hl, regSide_absent h]

/-! What the two cells of a latched pair read as. -/

theorem regValue_absent (h : regHere b a = false) : regValue b m a = absentCell := if_pos h

theorem regValue_wide {v : BitVec 28} (hh : regHere b a = true) (ho : atOdd b a = false) (hw : wideAt b a = some v) :
    regValue b m a = clean (lo14 v) := by
  unfold regValue
  rw [if_neg (by rw [hh]; decide), hw]
  refine if_neg ?_
  rintro ⟨h1, h2⟩
  have h3 : a < 0x0F21000 := by
    rcases wideAt_some hw with ⟨o, ho', rfl⟩ | ⟨f, o, hf, ho', rfl⟩ | ⟨e, he, rfl⟩ <;> simp only [aB, aF, aE] at * <;> omega
  simp [atOdd, h1, h2, h3] at ho

theorem regValue_aB {off : Nat} (h : off < 0x1000) (hw : wideAt b (aB off) = none) :
    regValue b m (aB off) = blkValue b m off := by
  unfold regValue
  rw [if_neg (by rw [regHere_aB b h]; decide), hw]
  unfold aB
  dsimp only
  rw [if_pos (by omega), show 0x0F00000 + off - 0x0F00000 = off by omega]

theorem regValue_aF {f off : Nat} (hf : f < 8) (h : off < 0x1000) (hc : clocked b f = true)
    (hw : wideAt b (aF f off) = none) : regValue b m (aF f off) = fieldValue b m f off := by
  unfold regValue
  rw [if_neg (by rw [regHere_aF b hf h, hc]; decide), hw]
  unfold aF
  dsimp only
  rw [if_neg (by omega), if_pos (by omega), show (0x0F10000 + f * 0x1000 + off - 0x0F10000) / 0x1000 = f by omega,
    show (0x0F10000 + f * 0x1000 + off) % 0x1000 = off by omega]

theorem regValue_aE {e off : Nat} (he : e < 64) (h : off < 0x40) (hc : clocked b (fldOf e) = true)
    (hw : wideAt b (aE e off) = none) :
    regValue b m (aE e off) = { v := lo14 (engValue b m e off).1, p := (engValue b m e off).2 } := by
  unfold regValue
  rw [if_neg (by rw [regHere_aE b he h, hc]; decide), hw]
  unfold aE
  dsimp only
  rw [if_neg (by omega), if_neg (by omega), if_pos (by omega),
    show (0x0F20000 + e * 0x40 + off - 0x0F20000) / 0x40 = e by omega,
    show (0x0F20000 + e * 0x40 + off) % 0x40 = off by omega]

@[simp] theorem latchOf_setLatch (v : BitVec 14) : latchOf (setLatch m a v b) m a = v := kget_kset_self ..

@[simp] theorem regHere_setLatch (c : Nat) (v : BitVec 14) : regHere (setLatch m a v b) c = regHere b c := rfl
@[simp] theorem atOdd_setLatch (c : Nat) (v : BitVec 14) : atOdd (setLatch m a v b) c = atOdd b c := rfl
@[simp] theorem wideAt_setLatch (c : Nat) (v : BitVec 14) : wideAt (setLatch m a v b) c = wideAt b c := rfl

theorem lo14_setWidth (v : BitVec 14) : lo14 (v.setWidth 28) = v := by
  ext i hi
  simp [lo14, hi]
  omega

/-- The HI register of a pair reads as the reader's latch (R68). -/
theorem regValue_hi {v : BitVec 28} (hh : regHere b a = true) (ho : atOdd b a = false) (hw : wideAt b a = some v) :
    regValue b m (a + 1) = clean (latchOf b m (a + 1)) := by
  rcases wideAt_some hw with ⟨o, ho', rfl⟩ | ⟨f, o, hf, ho', rfl⟩ | ⟨e, he, rfl⟩
  · show regValue b m (aB (o + 1)) = clean (latchOf b m (aB (o + 1)))
    rw [regValue_aB (by omega) (wideAt_aB (by omega) (by omega))]
    rcases ho' with rfl | rfl | rfl <;> rfl
  · show regValue b m (aF f (o + 1)) = clean (latchOf b m (aF f (o + 1)))
    rw [regHere_aF b hf (by omega)] at hh
    rw [regValue_aF hf (by omega) hh (wideAt_aF hf (by omega) (by omega))]
    rcases ho' with rfl | rfl | rfl <;> rfl
  · show regValue b m (aE e 0x0F) = clean (latchOf b m (aE e 0x0F))
    rw [regHere_aE b he (by decide)] at hh
    rw [atOdd_aE he (by decide)] at ho
    rw [regValue_aE he (by decide) hh (wideAt_aE he (by decide) (by decide))]
    simp [engValue, ho, lo14_setWidth, clean]

end Sys2Proof.Machine
end

section
/-! Reads with side effects (R17, R19, R68, R73, R211, R346, R453, R535): each read command leaves what the read of its register
leaves, register by register. -/

open Sys2Proof Sys2Proof.Machine Sys2Proof.Laws

namespace Sys2Proof.Reads

variable {st : State} {m : Master} {a : Nat} {c : Instr} {fits : Blk → Bool}

/-! Read commands. -/

/-- A read command that fits its row leaves what the read leaves, where no reset is in progress (R493). -/
theorem becomes_read (h : exec c st = run (fun b => readCmd m a (fits b) b) st) (ha : Awake st.blk) (hf : fits st.blk = true) :
    Becomes st c (regRead m a st.blk).2 := by
  refine becomes_of_run h ha.1 ?_
  unfold readCmd
  rw [if_neg (by simp [ha.2, hf])]

/-- One that does not fit is no event (log entry 2). -/
theorem becomes_unfit (h : exec c st = run (fun b => readCmd m a (fits b) b) st) (ha : Awake st.blk) (hf : fits st.blk = false) :
    Becomes st c st.blk := by
  refine becomes_of_run h ha.1 ?_
  unfold readCmd
  rw [if_pos (.inr hf)]

/-- A read whose own effect is none, at a register that is not SLEEPLO, leaves the block whether it fits or not. -/
theorem becomes_unread (h : exec c st = run (fun b => readCmd m a (fits b) b) st) (ha : Awake st.blk)
    (hr : fits st.blk = true → (regRead m a st.blk).2 = st.blk) : Becomes st c st.blk := by
  cases hf : fits st.blk with
  | false => exact becomes_unfit h ha hf
  | true =>
    have h1 := becomes_read h ha hf
    rwa [hr hf] at h1

theorem counterRead_eq (m : Master) (a : Nat) (st : State) :
    exec (.counterRead m a) st = run (fun b => readCmd m a ((fun _ => isRc a) b) b) st := rfl

theorem wideLoRead_eq (m : Master) (a : Nat) (st : State) :
    exec (.wideLoRead m a) st = run (fun b => readCmd m a ((fun b => (wideAt b a).isSome) b) b) st := rfl

theorem capslotRead_eq (m : Master) (k : Nat) (st : State) :
    exec (.capslotRead m k) st = run (fun b => readCmd m (aB (0x060 + 4 * k)) ((fun _ => true) b) b) st := rfl

theorem evclaimRead_eq (m : Master) (f k : Nat) (st : State) :
    exec (.evclaimRead m f k) st = run (fun b => readCmd m (aF f (0x110 + k)) ((fun _ => true) b) b) st := rfl

theorem ctxdataRead_eq (m : Master) (e : Nat) (st : State) :
    exec (.ctxdataRead m e) st = run (fun b => readCmd m (aE e 0x03) ((fun _ => true) b) b) st := rfl

theorem cmdoutRead_eq (m : Master) (st : State) :
    exec (.cmdoutRead m) st = run (fun b => readCmd m (aB 0x011) ((fun _ => true) b) b) st := rfl

/-! Reads that act. -/

section acts

variable (ha : Awake st.blk) (hr : readsAct st.blk m = true)
include ha hr

/-- A read that acts leaves its register's side effect, at any register but SLEEPLO and CMDOUT. -/
theorem becomes_side (h : exec c st = run (fun b => readCmd m a (fits b) b) st) (hf : fits st.blk = true)
    (h1 : a ≠ aB 0x1C5) (h2 : a ≠ aB 0x011) : Becomes st c (regSide m a st.blk) := by
  have h3 := becomes_read h ha hf
  rwa [regRead_acts hr h2, lookAt_ne h1] at h3

theorem counterRead_clears (hh : regHere st.blk a = true) (ho : atOdd st.blk a = false) (hc : isRc a = true) :
    Becomes st (.counterRead m a) (if isTbReg a && nobclk st.blk then st.blk else setReg a 0 st.blk) := by
  rw [← regSide_rc hh ho hc (m := m)]
  exact becomes_side ha hr (counterRead_eq m a st) hc (rc_ne_aB hc (by decide)) (rc_ne_aB hc (by decide))

theorem wideLoRead_latches {v : BitVec 28} (hh : regHere st.blk a = true) (ho : atOdd st.blk a = false)
    (hw : wideAt (lookAt a st.blk) a = some v) :
    Becomes st (.wideLoRead m a) (setLatch m (a + 1) (hi14 v) (lookAt a st.blk)) := by
  have hn : a ≠ aB 0x011 := by
    rintro rfl
    rw [wideAt_aB (by decide) (by decide)] at hw
    cases hw
  rw [← regSide_wide (by rw [regHere_lookAt, hh]) (by rw [atOdd_lookAt, ho]) hw, ← regRead_acts hr hn]
  exact becomes_read (wideLoRead_eq m a st) ha (wideAt_isSome_lookAt hw)

theorem capslotRead_clears {k : Nat} (hk : k < 8) : Becomes st (.capslotRead m k) (capslotRead k st.blk).2 := by
  rw [← regSide_capslot hk]
  exact becomes_side ha hr (capslotRead_eq m k st) rfl (by unfold aB; omega) (by unfold aB; omega)

theorem evclaimRead_claims {f k : Nat} (hf : f < 8) (hk : k < 8) (hc : clocked st.blk f = true) :
    Becomes st (.evclaimRead m f k) (evClaim f k st.blk).2 := by
  rw [← regSide_evclaim hf hk hc]
  exact becomes_side ha hr (evclaimRead_eq m f k st) rfl (by unfold aB aF; omega) (by unfold aB aF; omega)

theorem ctxdataRead_advances {e : Nat} (he : e < 64) (hc : clocked st.blk (fldOf e) = true) (ho : isOdd st.blk e = false) :
    Becomes st (.ctxdataRead m e) (ctxDataRead e st.blk) := by
  rw [← regSide_ctxdata he hc ho]
  exact becomes_side ha hr (ctxdataRead_eq m e st) rfl (by unfold aB aE; omega) (by unfold aB aE; omega)

theorem cmdoutRead_pops (hw : st.blk.stw.waiting = []) :
    Becomes st (.cmdoutRead m) (onStw (fun w => { w with cmdout := w.cmdout.drop 1 }) st.blk) := by
  rw [← regRead_cmdout hr hw]
  exact becomes_read (cmdoutRead_eq m st) ha rfl

end acts

/-! Reads that do not act. -/

section idle

variable (ha : Awake st.blk) (hr : readsAct st.blk m = false)
include ha hr

/-- A read that does not act leaves the block, at any register that fits its row and is not SLEEPLO. -/
theorem becomes_idle (h : exec c st = run (fun b => readCmd m a (fits b) b) st) (h1 : fits st.blk = true → a ≠ aB 0x1C5) :
    Becomes st c st.blk :=
  becomes_unread h ha fun hf => by rw [regRead_idle hr, lookAt_ne (h1 hf)]

theorem wideLoRead_looks (a : Nat) : Becomes st (.wideLoRead m a) (lookAt a st.blk) := by
  cases hf : (wideAt st.blk a).isSome with
  | false =>
    rw [lookAt_of_wideAt_none (Option.isSome_eq_false_iff.mp hf |> Option.isNone_iff_eq_none.mp)]
    exact becomes_unfit (wideLoRead_eq m a st) ha hf
  | true =>
    rw [← regRead_idle hr]
    exact becomes_read (wideLoRead_eq m a st) ha hf

end idle

/-! The effects of the reads of EVCLAIM, CTXDATA and CAPkSLOT, by case. -/

variable {b : Blk}

theorem evClaim_some {f k q : Nat} (ho : isOdd b (8 * f + k) = false) (h : topClaim b f k = some q) : (evClaim f k b).2 =
    refreshLines f (putSrc f q { st := .active, r := 0, g := 0, repend := false, claimer := k } (readEnt f q b)) := by
  unfold evClaim; rw [ho, h]; rfl

theorem evClaim_none {f k : Nat} (ho : isOdd b (8 * f + k) = false) (h : topClaim b f k = none) : (evClaim f k b).2 = b := by
  unfold evClaim; rw [ho, h]; rfl

theorem ctxDataRead_single {e : Nat} (hl : (engOf b e).lops = []) (ht : isTwin b e = false) :
    ctxDataRead e b = winStep e b := by
  simp [ctxDataRead, settleFor, settleLast_none hl, ht]

theorem ctxDataRead_low {e : Nat} (hl : (engOf b e).lops = []) (ht : isTwin b e = true) (hh : (engOf b e).half = none) :
    ctxDataRead e b = onEng e (fun x => { x with half := some (false, (selected b e).1, (selected b e).2) }) b := by
  simp [ctxDataRead, settleFor, settleLast_none hl, ht, hh]

theorem ctxDataRead_high {e : Nat} (hl : (engOf b e).lops = []) (ht : isTwin b e = true) (hh : (engOf b e).half ≠ none) :
    ctxDataRead e b = winStep e (onEng e (fun x => { x with half := none }) b) := by
  obtain ⟨h, hh⟩ := Option.ne_none_iff_exists'.mp hh
  simp [ctxDataRead, settleFor, settleLast_none hl, ht, hh]

/-- Settles O29: each read command leaves the side effect of its register, which `regSide` gives case by case. -/
theorem readsWithSideEffects : Obligations.ReadsWithSideEffects := by
  unfold Obligations.ReadsWithSideEffects
  intro st m ha b
  refine ⟨fun hr a hh ho => ⟨counterRead_clears ha hr hh ho, fun v hw => ?wide⟩, fun hr k hk => ?capslot,
    fun hr f k hf hk hc ho => ?evclaim, fun hr e he hc ho hl => ?ctxdata, cmdoutRead_pops ha, fun hr a f k e => ?idle,
    fun a hh => ?absent⟩
  case wide =>
    have hh' : regHere (lookAt a b) a = true := by rw [regHere_lookAt, hh]
    have ho' : atOdd (lookAt a b) a = false := by rw [atOdd_lookAt, ho]
    refine ⟨wideLoRead_latches ha hr hh ho hw, regValue_wide hh' ho' hw, ?_⟩
    rw [regValue_hi (v := v) (by rw [regHere_setLatch, hh']) (by rw [atOdd_setLatch, ho']) (by rw [wideAt_setLatch, hw]),
      latchOf_setLatch]
  case capslot =>
    have h := capslotRead_clears ha hr hk
    constructor <;> intro hn <;> simpa [capslotRead, b, hn] using h
  case evclaim =>
    have h := evclaimRead_claims ha hr hf hk hc
    exact ⟨fun q hq => evClaim_some ho hq ▸ h, fun hq => evClaim_none ho hq ▸ h⟩
  case ctxdata =>
    have h := ctxdataRead_advances ha hr he hc ho
    refine ⟨fun ht => ?_, fun ht hn => ?_, fun ht hn => ?_⟩
    · rwa [ctxDataRead_single hl ht] at h
    · rwa [ctxDataRead_low hl ht hn] at h
    · rwa [ctxDataRead_high hl ht hn] at h
  case idle =>
    exact ⟨becomes_idle ha hr (counterRead_eq m a st) fun hf => rc_ne_aB hf (by decide), wideLoRead_looks ha hr a,
      becomes_idle ha hr (capslotRead_eq m k st) fun _ => by unfold aB; omega,
      becomes_idle ha hr (evclaimRead_eq m f k st) fun _ => by unfold aB aF; omega,
      becomes_idle ha hr (ctxdataRead_eq m e st) fun _ => by unfold aB aE; omega,
      becomes_idle ha hr (cmdoutRead_eq m st) fun _ => by decide⟩
  case absent =>
    exact ⟨regValue_absent hh, becomes_unread (counterRead_eq m a st) ha fun _ => regRead_absent hh,
      becomes_unread (wideLoRead_eq m a st) ha fun _ => regRead_absent hh⟩

end Sys2Proof.Reads
end

section
/-! Writes of a register by its access codes (R16, R17, R494, R511), and the commands that name the write of one register. -/

open Sys2Proof Sys2Proof.Machine Sys2Proof.Laws

namespace Sys2Proof.Writes

variable {st : State} {m : Master} {a : Nat} {sq : Option Nat} {c : BCell} {b : Blk}

/-- Each bit of what a write leaves: stored where it is RW, cleared where it is W1C and written as 1, else as it was. -/
theorem bit_writeRow (d : RegD) (old v : BitVec 14) {i : Nat} (hi : i < 14) : bit (writeRow d old v) i =
    if bit d.rw i then bit v i else bit old i && !(bit d.w1c i && bit v i) := by
  simp only [bit, writeRow, BitVec.getLsbD_or, BitVec.getLsbD_and, BitVec.getLsbD_not, hi, decide_true, Bool.true_and]
  by_cases h : d.rw.getLsbD i = true <;> simp [h, Bool.and_comm]

/-! Registers without a rule of their own. -/

theorem blkWrite_plain {off : Nat} (h : ruledBlk off = false) : blkWrite m off c b = plainWrite (aB off) c.v b := by
  simp only [ruledBlk, List.contains_cons, List.contains_nil, Bool.or_eq_false_iff, Bool.and_eq_false_iff,
    beq_eq_false_iff_ne, decide_eq_false_iff_not] at h
  unfold blkWrite
  iterate 24 rw [if_neg (by omega)]

theorem fieldWrite_plain {f off : Nat} (h : ruledField off = false) :
    fieldWrite m f off sq c b = plainWrite (aF f off) c.v b := by
  simp only [ruledField, List.contains_cons, List.contains_nil, Bool.or_eq_false_iff, Bool.and_eq_false_iff,
    beq_eq_false_iff_ne, decide_eq_false_iff_not] at h
  unfold fieldWrite
  iterate 18 rw [if_neg (by omega)]

theorem engWrite_plain {e off : Nat} (ho : isOdd b e = false) (h : ruledEng off = false) :
    engWrite m e off c b = plainWrite (aE e off) c.v b := by
  simp only [ruledEng, List.contains_cons, List.contains_nil, Bool.or_eq_false_iff, Bool.and_eq_false_iff,
    beq_eq_false_iff_ne, decide_eq_false_iff_not] at h
  unfold engWrite
  rw [if_neg (by simp [ho])]
  iterate 12 rw [if_neg (by omega)]

/-- The odd engine of a pair ignores a write (R330). -/
theorem engWrite_odd {e off : Nat} (ho : isOdd b e = true) : engWrite m e off c b = b := if_pos ho

/-- A register that answers is one of the block, of a field whose clock runs, of an engine of such a field, or of a present link. -/
theorem regHere_cases (h : regHere b a = true) : (∃ off, off < 0x1000 ∧ a = aB off) ∨
    (∃ f off, f < 8 ∧ off < 0x1000 ∧ clocked b f = true ∧ a = aF f off) ∨
    (∃ e off, e < 64 ∧ off < 0x40 ∧ clocked b (fldOf e) = true ∧ a = aE e off) ∨
    (∃ l off, l < 96 ∧ off < 0x10 ∧ a = aL l off) := by
  unfold regHere at h
  split at h
  · cases h
  split at h
  · exact .inl ⟨a - 0x0F00000, by omega, by unfold aB; omega⟩
  split at h
  · cases h
  split at h
  · obtain ⟨f, off, hf, ho, -, rfl⟩ := eq_aF_of_range (a := a) (by omega) (by omega)
    refine .inr (.inl ⟨f, off, hf, ho, ?_, rfl⟩)
    rwa [show (aF f off - 0x0F10000) / 0x1000 = f by unfold aF; omega] at h
  split at h
  · cases h
  split at h
  · obtain ⟨e, off, he, ho, -, rfl⟩ := eq_aE_of_range (a := a) (by omega) (by omega)
    refine .inr (.inr (.inl ⟨e, off, he, ho, ?_, rfl⟩))
    rwa [show (aE e off - 0x0F20000) / 0x200 = fldOf e by unfold aE fldOf; omega] at h
  split at h
  · cases h
  split at h
  · exact .inr (.inr (.inr ⟨(a - 0x0F30000) / 0x10, a % 0x10, by omega, by omega, by unfold aL; omega⟩))
  · cases h

theorem plainReg_aB {off : Nat} (h : off < 0x1000) : plainReg (aB off) = !(ruledBlk off) := by
  unfold plainReg aB
  rw [if_pos (by omega), show 0x0F00000 + off - 0x0F00000 = off by omega]

theorem plainReg_aF {f off : Nat} (hf : f < 8) (h : off < 0x1000) : plainReg (aF f off) = !(ruledField off) := by
  unfold plainReg aF
  rw [if_neg (by omega), if_pos (by omega), show (0x0F10000 + f * 0x1000 + off) % 0x1000 = off by omega]

theorem plainReg_aE {e off : Nat} (he : e < 64) (h : off < 0x40) : plainReg (aE e off) = !(ruledEng off) := by
  unfold plainReg aE
  iterate 2 rw [if_neg (by omega)]
  rw [if_pos (by omega), show (0x0F20000 + e * 0x40 + off) % 0x40 = off by omega]

theorem plainReg_aL {l off : Nat} (h : off < 0x10) : plainReg (aL l off) = decide (off ≠ 0) := by
  unfold plainReg aL
  iterate 3 rw [if_neg (by omega)]
  rw [show (0x0F30000 + l * 0x10 + off) % 0x10 = off by omega]

/-- A register without a rule of its own is no doorbell. -/
theorem plainReg_not_doorbell (h : plainReg a = true) : isDoorbell a = false := by
  cases hd : isDoorbell a with
  | false => rfl
  | true =>
    simp only [isDoorbell, Bool.and_eq_true, decide_eq_true_eq] at hd
    obtain ⟨⟨h1, h2⟩, h3⟩ := hd
    obtain ⟨f, off, hf, ho, hm, rfl⟩ := eq_aF_of_range h1 h2
    rw [plainReg_aF hf ho, ← hm, h3] at h
    exact absurd h (by decide)

/-- The write of such a register follows its access codes alone. -/
theorem regWrite_plain (hh : regHere b a = true) (ho : atOdd b a = false) (hp : plainReg a = true)
    (hn : (isTbReg a && nobclk b) = false) : regWrite m a sq c b = plainWrite a c.v b := by
  have hd := plainReg_not_doorbell hp
  rcases regHere_cases hh with ⟨off, h, rfl⟩ | ⟨f, off, hf, h, hc, rfl⟩ | ⟨e, off, he, h, hc, rfl⟩ | ⟨l, off, hl, h, rfl⟩
  · rw [plainReg_aB h, Bool.not_eq_true'] at hp
    rw [regWrite_aB b h hn, blkWrite_plain hp]
  · rw [plainReg_aF hf h, Bool.not_eq_true'] at hp
    rw [regWrite_aF b hf h (by rintro rfl; exact absurd hp (by decide)) _ _ _ hc, fieldWrite_plain hp]
  · rw [plainReg_aE he h, Bool.not_eq_true'] at hp
    rw [atOdd_aE he h] at ho
    rw [regWrite_aE b he h _ _ _ hc, engWrite_plain ho hp]
  · rw [plainReg_aL h, decide_eq_true_eq] at hp
    rw [regWrite_unit b hd hh hn]
    unfold aL
    iterate 4 rw [if_neg (by omega)]

theorem atOdd_range (h : atOdd b a = true) : 0x0F20000 ≤ a ∧ a < 0x0F21000 := by
  simp only [atOdd, Bool.and_eq_true, decide_eq_true_eq] at h
  exact h.1

theorem atOdd_not_doorbell (h : atOdd b a = true) : isDoorbell a = false :=
  isDoorbell_no (.inr (.inl (by have := atOdd_range h; omega)))

theorem isTbReg_not_doorbell (h : isTbReg a = true) : isDoorbell a = false := by
  simp only [isTbReg, Bool.and_eq_true, decide_eq_true_eq] at h
  exact isDoorbell_no (.inl (by omega))

/-- A write at the odd engine of a pair leaves the block (R330). -/
theorem regWrite_odd (ho : atOdd b a = true) : regWrite m a sq c b = b := by
  have hd := atOdd_not_doorbell ho
  have hr := atOdd_range ho
  obtain ⟨e, off, he, h, -, rfl⟩ := eq_aE_of_range hr.1 hr.2
  rw [atOdd_aE he h] at ho
  cases hc : clocked b (fldOf e) with
  | false => exact regWrite_absent b _ _ _ _ hd (by rw [regHere_aE b he h, hc])
  | true => rw [regWrite_aE b he h _ _ _ hc, engWrite_odd ho]

/-- While NOBCLK is 1 a write of a timebase register leaves the block (R56). -/
theorem regWrite_nobclk (ht : isTbReg a = true) (hn : nobclk b = true) : regWrite m a sq c b = b := by
  unfold regWrite
  simp [isTbReg_not_doorbell ht, ht, hn]

/-! Poison (R335, R462, R511). -/

/-- The cells that reach a register: a clean one of any master, and a poisoned one of an engine or of the debug master. -/
def Passes (m : Master) (c : BCell) : Prop := c.p = false ∨ m = .debug ∨ ∃ e, m = .engine e

theorem regStore_passes (h : Passes m c) (hd : isDoorbell a = false) : (regStore m a sq c b).2 = regWrite m a sq c b := by
  unfold regStore
  split
  next hp =>
    unfold poisonedWrite
    cases hh : regHere b a with
    | false => rw [regWrite_absent b m a sq c hd hh]; rfl
    | true =>
      rcases h with h | rfl | ⟨e, rfl⟩
      · rw [hp.1] at h; cases h
      · rfl
      · rw [hd]; rfl
  next => rfl

theorem regStore_absent (hh : regHere b a = false) (hd : isDoorbell a = false) : (regStore m a sq c b).2 = b := by
  unfold regStore poisonedWrite
  rw [if_pos hh, regWrite_absent b m a sq c hd hh]
  split <;> rfl

/-- A poisoned cell of another master goes no further; the host's is counted in HPSTAT. -/
theorem regStore_poisoned (hp : c.p = true) (ha : a ≠ aB 0x010) (hd : isDoorbell a = false) (hh : regHere b a = true) :
    (regStore .host a sq c b).2 = orReg (aB 0x01B) 4 b ∧ (regStore .steward a sq c b).2 = b ∧
      (regStore .linkDma a sq c b).2 = b := by
  simp [regStore, poisonedWrite, hp, ha, hd, hh]

/-! Write commands. -/

/-- A write command at a register address is the register's store. -/
theorem becomes_registerWrite (ha : Awake st.blk) (hr : isRegAddr a = true) {d : Blk}
    (h : (regStore m a (slotOfMaster st.blk ((a - 0x0F10000) / 0x1000) m) c st.blk).2 = d) :
    Becomes st (.registerWrite m a c) d := by
  refine becomes_of_run (f := regCmd m a c (isRegAddr a)) rfl ha.1 ?_
  unfold regCmd
  rw [if_neg (by simp [ha.2, hr]), h]

/-- A command whose register stands at a register address is the write of that register. -/
theorem exec_eq_registerWrite {i : Instr} (h : exec i st = run (regCmd m a c true) st) (hr : isRegAddr a = true) :
    exec i st = exec (.registerWrite m a c) st := by
  show exec i st = run (regCmd m a c (isRegAddr a)) st
  rw [h, hr]

/-- Settles O30: a write goes to the register where its cell passes and a unit answers, and there follows the access codes. -/
theorem registerWritesByAccessCode : Obligations.RegisterWritesByAccessCode := by
  unfold Obligations.RegisterWritesByAccessCode
  intro st m a c ha hr b acts
  have pass : ∀ {d}, Passes m c → isDoorbell a = false →
      regWrite m a (slotOfMaster b ((a - 0x0F10000) / 0x1000) m) c b = d → Becomes st (.registerWrite m a c) d :=
    fun hp hd h => becomes_registerWrite ha hr ((regStore_passes hp hd).trans h)
  refine ⟨fun hp hh ho hpl hn => ⟨fun d hd => ⟨?plain, fun i hi => bit_writeRow d _ _ hi⟩, fun hd => ?unassigned⟩,
    fun hp ht hn => pass hp (isTbReg_not_doorbell ht) (regWrite_nobclk ht hn),
    fun hh hd => becomes_registerWrite ha hr (regStore_absent hh hd),
    fun hp ho => pass hp (atOdd_not_doorbell ho) (regWrite_odd ho),
    fun hp hn hd hh => ?poisoned, ?blk, fun f hf => ?field, fun f i hf => ?fieldIdx, fun e n he => ?eng, fun i hi => ?cal⟩
  case plain =>
    exact pass hp (plainReg_not_doorbell hpl) ((regWrite_plain hh ho hpl hn).trans (plainWrite_row b c.v hd))
  case unassigned =>
    refine pass hp (plainReg_not_doorbell hpl) ((regWrite_plain hh ho hpl hn).trans ?_)
    unfold plainWrite; rw [hd]
  case poisoned =>
    obtain ⟨h1, h2, h3⟩ := regStore_poisoned hp hn hd hh
    exact ⟨becomes_registerWrite ha hr h1, becomes_registerWrite ha hr h2, becomes_registerWrite ha hr h3⟩
  case blk =>
    simp only [List.forall_mem_cons, List.not_mem_nil, false_imp_iff, implies_true, and_true]
    refine ⟨?_, ?_, ?_, ?_, ?_, ?_, ?_, ?_⟩ <;> exact exec_eq_registerWrite rfl (isRegAddr_aB (by decide))
  case field =>
    simp only [List.forall_mem_cons, List.not_mem_nil, false_imp_iff, implies_true, and_true]
    refine ⟨?_, ?_, ?_, ?_, ?_, ?_, ?_⟩ <;> exact exec_eq_registerWrite rfl (isRegAddr_aF hf (by decide))
  case fieldIdx =>
    refine ⟨fun hi => ?_, fun hi => ?_, fun hi => ?_, fun hi => ?_⟩ <;>
      exact exec_eq_registerWrite rfl (isRegAddr_aF hf (by omega))
  case eng =>
    exact ⟨exec_eq_registerWrite rfl (isRegAddr_aE he (by decide)),
      fun _ hn => exec_eq_registerWrite rfl (isRegAddr_aE he (by omega))⟩
  case cal => exact exec_eq_registerWrite rfl (isRegAddr_aB (by omega))

end Sys2Proof.Writes
end

section
/-! The machine right after reset (R14, R410, R490, R501, R526 to R530). -/

open Sys2Proof Sys2Proof.Machine

namespace Sys2Proof.Reset

/-- Every register holds its cold value, but RSTCAUSE, which shows the power-on. -/
theorem reg_reset (a : Nat) : reg Blk.reset a = if a = aB 0x005 then 1 else coldReg a := rfl

theorem rawWord_reset (a : Nat) : rawWord Blk.reset a = 0 := kget_nil 0 a

theorem fieldOf_reset (f : Nat) : fieldOf Blk.reset f = Field.cold :=
  (getAt_same _ _ f).trans (ite_self _)

theorem engOf_reset (e : Nat) : engOf Blk.reset e = Engine.cold :=
  (getAt_same _ _ e).trans (ite_self _)

theorem linkOf_reset (l : Nat) : linkOf Blk.reset l = Link.cold :=
  (getAt_same _ _ l).trans (ite_self _)

/-- DPOR_N leaves an authentication state that R526 to R530 allow: LEVEL 0, nothing failed, no challenge outstanding. -/
theorem legal_dpor : Auth.Legal Auth.dpor where
  level := Nat.zero_le _
  locked _ := ⟨rfl, rfl⟩
  fails := Nat.zero_le _
  key h := by cases h
  barred h := by cases h

/-- Settles O59: the registers, the memory and the units by their reads, the rest as `State.reset` gives it. -/
theorem resetLeavesTheBlockCold : Obligations.ResetLeavesTheBlockCold := by
  have mode : modeOf Blk.reset = 1 := by unfold modeOf; rw [reg_reset]; decide
  exact ⟨rfl, mode, reg_reset, rfl, rawWord_reset, fun f _ => fieldOf_reset f, fun e _ => engOf_reset e,
    fun l _ => linkOf_reset l, rfl, rfl, rfl, rfl, rfl, rfl, rfl, rfl, rfl, rfl, rfl, rfl, legal_dpor⟩

end Sys2Proof.Reset
end

section
/-! Facts about the parts of the block that an intake step reads: a field after an update, what fetches keep of the slots and the
alignment, the stored word of a clean cell (R407, R408), and the counter of late copies (R152). -/

namespace Sys2Proof.Machine

variable {b c : Blk} {f : Nat}

theorem fld_lt {n : Nat} (v : BitVec n) (lo w : Nat) : fld v lo w < 2 ^ w := Nat.mod_lt _ (Nat.two_pow_pos w)

theorem fieldOf_onField_self (h : Field → Field) (hf : f < 8) : fieldOf (onField f h b) f = h (fieldOf b f) := by
  rw [fieldOf_onField, if_pos ⟨rfl, hf⟩]

theorem nFields_congr (h : c.cfg = b.cfg) : nFields c = nFields b := by
  unfold nFields; rw [h]

/-! What a step that keeps the path of every field keeps of it. -/

section path
variable (h : pathOf (fieldOf c f) = pathOf (fieldOf b f))
include h

theorem clearing_of_path : (fieldOf c f).clearing = (fieldOf b f).clearing := congrArg (fun p => p.2.2.1) h
theorem fenEff_of_path : (fieldOf c f).fenEff = (fieldOf b f).fenEff := congrArg (fun p => p.2.2.2.2.2.1) h

theorem openRec_of_path : openRec c f = openRec b f :=
  congrArg (fun p => p.2.2.2.2.2.2.1.find? (fun r => !r.closed)) h

end path

theorem alignOn_calm (h : Calm b c) (f : Nat) : alignOn c f = alignOn b f := by
  unfold alignOn; rw [h.clocked, fenEff_of_path (h.path f)]

/-! The stored word (R407, R408). -/

theorem sumN_b2n_eq_countP (p : Nat → Bool) (l : List Nat) : sumN (l.map (fun i => b2n (p i))) = l.countP p := by
  induction l with
  | nil => rfl
  | cons x xs ih =>
    rw [List.map_cons, sumN, ih, List.countP_cons, Nat.add_comm]
    rfl

/-- A vector with one set bit is a power of two. -/
theorem eq_twoPow_of_ones {n : Nat} {w : BitVec n} (h : ones w = 1) : ∃ i, i < n ∧ w = BitVec.twoPow n i := by
  unfold ones at h
  rw [sumN_b2n_eq_countP, List.countP_eq_length_filter, List.length_eq_one_iff] at h
  obtain ⟨i, hi⟩ := h
  have bits : ∀ j, (j < n ∧ bit w j = true) ↔ j = i := fun j => by
    rw [← List.mem_singleton (a := j), ← hi, List.mem_filter, List.mem_range]
  have hn := ((bits i).mpr rfl).1
  refine ⟨i, hn, BitVec.eq_of_getLsbD_eq fun j hj => ?_⟩
  rw [BitVec.getLsbD_twoPow, Bool.eq_iff_iff]
  have hb := bits j
  simp only [hj, true_and, bit] at hb
  simp [hb, hn, eq_comm]

@[simp] theorem data_storedWord (d : BitVec 14) : (storedWord d).extractLsb' 0 14 = d :=
  BitVec.extractLsb'_append_eq_right

@[simp] theorem check_storedWord (d : BitVec 14) : (storedWord d).extractLsb' 14 6 = ~~~ checkOf d :=
  BitVec.extractLsb'_append_eq_left

/-- No word with a single set bit is the stored word of its data bits. -/
theorem ones_storedWord_ne_one (d : BitVec 14) : ones (storedWord d) ≠ 1 := by
  intro h
  obtain ⟨i, hi, hw⟩ := eq_twoPow_of_ones h
  have hd : d = (BitVec.twoPow 20 i).extractLsb' 0 14 := by rw [← hw, data_storedWord]
  have no : ∀ i, i < 20 → storedWord ((BitVec.twoPow 20 i).extractLsb' 0 14) ≠ BitVec.twoPow 20 i := by decide
  exact no i hi (hd ▸ hw)

theorem storedWord_ne_zero (d : BitVec 14) : storedWord d ≠ 0 := by
  intro h
  have hd : d = 0 := by rw [← data_storedWord d, h]; rfl
  rw [hd] at h
  exact absurd h (by decide)

/-- The stored word of a cell decodes clean to that cell. -/
theorem eccDecode_storedWord (d : BitVec 14) : eccDecode (storedWord d) = { cls := .clean, cell := clean d, synd := 0 } := by
  have hs : checkOf d ^^^ ~~~ ~~~ checkOf d = 0 := by rw [BitVec.not_not, BitVec.xor_self]; rfl
  unfold eccDecode
  simp only [data_storedWord, check_storedWord, hs, if_neg (storedWord_ne_zero d), if_neg (ones_storedWord_ne_one d)]
  exact if_pos trivial

/-- A read of a clean word of a memory that is present, does not clear and has no shadow answers its cell and counts nothing. -/
theorem rdMem_clean {m : Mem} {v : BitVec 14} (mc : Nat) (hp : memPresent b m = true) (hc : memClearing b m = false)
    (hs : shadowOf b m = none) (hw : rawWord b (memAddr m) = storedWord v) : rdMem m mc b = (clean v, b) := by
  have hr : readMem m mc b = (clean v, b, []) := by
    unfold readMem
    rw [if_neg (by simp [hp, hc]), hs, hw, eccDecode_storedWord]
    rfl
  unfold rdMem
  rw [hr]
  rfl

/-! Registers that the causes and sources of the intake leave alone. -/

theorem noteSource_calm (f src : Nat) (b : Blk) : Calm b (noteSource f src b) := by
  unfold noteSource
  split
  · exact .rfl b
  · exact (onField_calm b (fun _ => by rfl)).raise

theorem reg_poisonSlot (f seq : Nat) (b : Blk) (a : Nat) : reg (poisonSlot f seq b) a = reg b a := by
  unfold poisonSlot
  split
  · dsimp only
    split
    · split <;> rfl
    · rfl
  · rfl

/-- MAPLASTP, MAPLASTC and MAPSTAT are all that the note of a poisoned slot writes. -/
theorem reg_notePoisoned_ne (t : BitVec 14) (first code : Nat) {a : Nat} (h1 : a ≠ aF f 0x041) (h2 : a ≠ aF f 0x047)
    (h3 : a ≠ aF f 0x048) : reg (notePoisoned f t first code b) a = reg b a := by
  unfold notePoisoned
  dsimp only
  split
  · rw [reg_setReg_ne _ _ h3, reg_setReg_ne _ _ h2]
  · rw [reg_orReg, if_neg h1, reg_setReg_ne _ _ h3, reg_setReg_ne _ _ h2]

/-- No raise writes the counter of late copies. -/
theorem quietReg_lateCopies (hf : f < 8) : quietReg (aF f 0x053) = true := by
  have hB : ¬ (aB 0x1C0 ≤ aF f 0x053 ∧ aF f 0x053 < aB 0x1C8) := by unfold aB aF; omega
  have hE : ¬ (aE 0 0 ≤ aF f 0x053 ∧ aF f 0x053 < aE 64 0 ∧ aF f 0x053 % 0x40 = 0x28) := by unfold aE aF; omega
  have hF : aF f 0x053 % 0x1000 = 0x053 := by unfold aF; omega
  unfold quietReg
  rw [decide_eq_false hB, decide_eq_false hE, hF]
  simp

theorem toNat_reg_count_self (a : Nat) (b : Blk) : (reg (count a b) a).toNat = min 16383 ((reg b a).toNat + 1) := by
  rw [reg_count, if_pos rfl, BitVec.toNat_ofNat]
  omega

/-- A copy that comes after its slot closed is counted once. -/
theorem reg_copyLate (hf : f < 8) (x : Border) (b : Blk) :
    (reg (copyLate f x b) (aF f 0x053)).toNat = min 16383 ((reg b (aF f 0x053)).toNat + 1) := by
  have hn : aF f 0x053 ≠ aF f 0x041 ∧ aF f 0x053 ≠ aF f 0x047 ∧ aF f 0x053 ≠ aF f 0x048 := by unfold aF; omega
  obtain ⟨h1, h2, h3⟩ := hn
  have counted : (reg (noteSource f 442 (count (aF f 0x053) (poisonSlot f x.seq b))) (aF f 0x053)).toNat =
      min 16383 ((reg b (aF f 0x053)).toNat + 1) := by
    rw [(noteSource_calm _ _ _).regs _ (quietReg_lateCopies hf), toNat_reg_count_self, reg_poisonSlot]
  unfold copyLate
  dsimp only
  split
  · rw [reg_notePoisoned_ne _ _ _ h1 h2 h3, reg_onField, counted]
  · unfold noteCause addCause
    rw [reg_notePoisoned_ne _ _ _ h1 h2 h3, reg_onField, counted]

end Sys2Proof.Machine
end

section
/-! The mapper, case by case (R133, R144 to R149, R151, R152, R160): the release of a word into the intake FIFO, the sample at its
head, its conditioning, its border copies, and the copies that come from the neighbours. -/

open Sys2Proof Sys2Proof.Machine Sys2Proof.Laws

namespace Sys2Proof.Mapping

variable {st : State} {b : Blk} {f : Nat} {r : SlotRec} {x : Sample}

/-! Release of words (R148, R149). -/

theorem releaseWord_nil (h : (fieldOf b f).relq = []) : releaseWord f b = b := by
  unfold releaseWord; rw [h]

theorem times_releaseWord_nil (n : Nat) (h : (fieldOf b f).relq = []) : times (releaseWord f) n b = b := by
  induction n with
  | zero => rfl
  | succ n ih => rw [times, releaseWord_nil h, ih]

theorem openRec_onField_relq (ws : List (List Sample)) : openRec (onField f (fun y => { y with relq := ws }) b) f = openRec b f :=
  openRec_of_path ((onField_calm b (fun _ => by rfl)).path f)

section release
variable {w : List Sample} {ws : List (List Sample)} (hf : f < 8) (h : (fieldOf b f).relq = w :: ws)
include hf h

theorem releaseWord_fits (hn : fifoSize (fieldOf b f).fifo + fifoSize w ≤ 512) : releaseWord f b =
    peak (aF f 0x046) (fifoSize (fieldOf b f).fifo + fifoSize w)
      (onField f (fun y => { y with fifo := y.fifo ++ w }) (onField f (fun y => { y with relq := ws }) b)) := by
  unfold releaseWord
  rw [h]
  dsimp only
  rw [fieldOf_onField_self _ hf]
  exact if_neg (Nat.not_lt.mpr hn)

variable (hn : 512 < fifoSize (fieldOf b f).fifo + fifoSize w)
include hn

theorem releaseWord_full_none (ho : openRec b f = none) :
    releaseWord f b = onField f (fun y => { y with relq := ws }) b := by
  unfold releaseWord
  rw [h]
  dsimp only
  rw [fieldOf_onField_self _ hf, openRec_onField_relq, ho]
  exact if_pos hn

theorem releaseWord_full_some (ho : openRec b f = some r) :
    releaseWord f b = poisonMapped f r 4 0x04C w.length 435 (onField f (fun y => { y with relq := ws }) b) := by
  unfold releaseWord
  rw [h]
  dsimp only
  rw [fieldOf_onField_self _ hf, openRec_onField_relq, ho]
  exact if_pos hn

end release

/-! The head of the FIFO. -/

theorem mapHead_idle (h : (fieldOf b f).fifo = [] ∨ openRec b f = none) : mapHead f b = b := by
  unfold mapHead
  split
  next h1 h2 => simp [h1, h2] at h
  next => rfl

theorem mapHead_cons {xs : List Sample} (h : (fieldOf b f).fifo = x :: xs) (ho : openRec b f = some r) :
    mapHead f b = mapOne f r x (onField f (fun y => { y with fifo := xs }) b) := by
  unfold mapHead; rw [h, ho]

/-! One sample (R145). -/

theorem mapOne_masked (h : r.masks.contains x.ch = true) : mapOne f r x b = count (aF f 0x054) b := by
  unfold mapOne; rw [if_pos h]

theorem mapOne_poisoned (h : r.masks.contains x.ch = false) (hp : x.p = true) :
    mapOne f r x b = poisonMapped f r 9 0x051 1 440 b := by
  unfold mapOne; rw [if_neg (ne_true_of_eq_false h), if_pos hp]

/-! What a sample that is neither masked nor poisoned comes to by its table entry: `tel`, `ped` and `gan` are the reads of its
tile, pedestal and gain. -/

section entry
variable {tel ped gan : BCell × Blk} (h : r.masks.contains x.ch = false ∧ x.p = false)
  (ht : rdMem (.chanMap f (b2n r.msel * 0x10000 + 3 * x.ch)) 8 b = tel)
  (hp : rdMem (.chanMap f (b2n r.msel * 0x10000 + 3 * x.ch + 1)) 8 tel.2 = ped)
  (hg : rdMem (.chanMap f (b2n r.gsel * 0x10000 + 3 * x.ch + 2)) 8 ped.2 = gan)
include h ht hp hg

theorem mapOne_kept : mapOne f r x b =
    if tel.1.p then poisonMapped f r 8 0x050 1 439 tel.2
    else if tel.1.v = 0x3FFF then tel.2
    else if ped.1.p ∨ gan.1.p then poisonMapped f r 8 0x050 1 439 gan.2
    else mapOut f r x tel.1.v.toNat ped.1.v gan.1.v gan.2 := by
  subst ht hp hg
  exact (if_neg (ne_true_of_eq_false h.1)).trans (if_neg (ne_true_of_eq_false h.2))

theorem mapOne_noTile (t : tel.1.p = true) : mapOne f r x b = poisonMapped f r 8 0x050 1 439 tel.2 := by
  rw [mapOne_kept h ht hp hg, if_pos t]

variable (t : tel.1.p = false)
include t

theorem mapOne_unmapped (hv : tel.1.v = 0x3FFF) : mapOne f r x b = tel.2 := by
  rw [mapOne_kept h ht hp hg, if_neg (ne_true_of_eq_false t), if_pos hv]

variable (hv : tel.1.v ≠ 0x3FFF)
include hv

theorem mapOne_noGain (hpg : ped.1.p = true ∨ gan.1.p = true) : mapOne f r x b = poisonMapped f r 8 0x050 1 439 gan.2 := by
  rw [mapOne_kept h ht hp hg, if_neg (ne_true_of_eq_false t), if_neg hv, if_pos hpg]

theorem mapOne_conditioned (hpp : ped.1.p = false) (hgp : gan.1.p = false) :
    mapOne f r x b = mapOut f r x tel.1.v.toNat ped.1.v gan.1.v gan.2 := by
  rw [mapOne_kept h ht hp hg, if_neg (ne_true_of_eq_false t), if_neg hv, if_neg (by simp [hpp, hgp])]

end entry

/-- A read of a clean entry of the table of a field whose clock runs and whose memories do not clear. -/
theorem rdMem_chanMap_clean {i : Nat} {v : BitVec 14} (mc : Nat) (hc : clocked b f = true) (hl : (fieldOf b f).clearing = false)
    (hw : rawWord b (0x100000 + f * 0x20000 + i) = storedWord v) : rdMem (.chanMap f i) mc b = (clean v, b) := by
  have hp : powered b f = true := (Bool.and_eq_true_iff.mp hc).1
  exact rdMem_clean mc hp hl rfl hw

/-! Conditioning (R145, R146). -/

/-- The output of R146 is the product of amplitude and gain, saturated to the range of a cell. -/
theorem condition_eq {amp ped gain : Nat} {raw out : Int} (hr : Int.tdiv (((amp : Int) - (ped : Int)) * (gain : Int)) 4096 = raw)
    (ho : max (-8192) (min 8191 raw) = out) : condition amp ped gain = (out, decide (raw ≠ out)) := by
  unfold condition
  dsimp only
  rw [hr, ← Bool.decide_or]
  exact Prod.ext (by simp only; omega) (decide_eq_decide.mpr (by omega))

/-- The block after conditioning: a saturated output is counted, flagged and raised (R146). -/
def noteSaturation (f : Nat) (raw out : Int) (b : Blk) : Blk :=
  if raw = out then b else noteSource f 441 (orReg (aF f 0x041) 0x20 (count (aF f 0x052) b))

theorem noteSaturation_cfg (f : Nat) (raw out : Int) (b : Blk) : (noteSaturation f raw out b).cfg = b.cfg := by
  unfold noteSaturation
  split
  · rfl
  · exact (noteSource_calm _ _ _).cfg

theorem matchHit_cfg (f seq tile fl : Nat) (out : Int) (b : Blk) : (matchHit f seq tile fl out b).cfg = b.cfg := rfl

section mapOut
variable {tile : Nat} {ped gain : BitVec 14} {raw out : Int}
  (hr : Int.tdiv (((x.amp.toNat : Int) - (ped.toNat : Int)) * (gain.toNat : Int)) 4096 = raw)
  (ho : max (-8192) (min 8191 raw) = out)
include hr ho

theorem mapOut_eq : mapOut f r x tile ped gain b =
    if zsApplies r x ∧ out < r.zs.toInt then noteSaturation f raw out b
    else borderCopies f r tile x.u out (matchHit f r.seq tile x.u out (noteSaturation f raw out b)) := by
  unfold mapOut noteSaturation
  simp only [condition_eq hr ho, decide_eq_true_eq, ite_not]

theorem mapOut_suppressed (hz : zsApplies r x = true) (hl : out < r.zs.toInt) :
    mapOut f r x tile ped gain b = noteSaturation f raw out b := by
  rw [mapOut_eq hr ho, if_pos ⟨hz, hl⟩]

theorem mapOut_tested (h : zsApplies r x = false ∨ r.zs.toInt ≤ out) : mapOut f r x tile ped gain b =
    borderCopies f r tile x.u out (matchHit f r.seq tile x.u out (noteSaturation f raw out b)) := by
  rw [mapOut_eq hr ho, if_neg]
  rintro ⟨hz, hl⟩
  rcases h with h | h
  · rw [h] at hz; cases hz
  · omega

end mapOut

/-! Border copies (R151). BW is at most 15, so that no tile is copied to both sides. -/

section copies
variable {tile fl : Nat} {out : Int}

theorem borderCopies_right (hb : bit r.mapctl 9 = true) (hu : 128 ≤ tile % 128 + fld r.mapctl 10 4) :
    borderCopies f r tile fl out b =
    sendCopy ((f + 1) % nFields b) r.seq (tile / 128 * 128 + (tile % 128 + fld r.mapctl 10 4 - 128)) fl out b := by
  have hlt := fld_lt r.mapctl 10 4
  unfold borderCopies
  dsimp only
  rw [if_neg (by omega), if_pos ⟨hb, by omega, by omega⟩]

theorem borderCopies_left (hb : bit r.mapctl 8 = true) (hu : tile % 128 < fld r.mapctl 10 4) :
    borderCopies f r tile fl out b =
    sendCopy ((f + nFields b - 1) % nFields b) r.seq (tile / 128 * 128 + (tile % 128 + 128 - fld r.mapctl 10 4)) fl out b := by
  have hlt := fld_lt r.mapctl 10 4
  unfold borderCopies
  dsimp only
  rw [if_pos ⟨hb, by omega, hu⟩, if_neg (by omega)]

theorem borderCopies_none (h9 : bit r.mapctl 9 = false ∨ fld r.mapctl 10 4 = 0 ∨ tile % 128 + fld r.mapctl 10 4 < 128)
    (h8 : bit r.mapctl 8 = false ∨ fld r.mapctl 10 4 ≤ tile % 128) : borderCopies f r tile fl out b = b := by
  unfold borderCopies
  dsimp only
  rw [if_neg, if_neg]
  · rintro ⟨hb, hw, hu⟩
    rw [hb] at h9
    rcases h9 with h | h | h
    · cases h
    · omega
    · omega
  · rintro ⟨hb, -, hu⟩
    rw [hb] at h8
    rcases h8 with h | h
    · cases h
    · omega

end copies

/-! Copies from the neighbours (R152). -/

/-- The first copy whose slot the field has begun to release. -/
def nextCopy (b : Blk) (f : Nat) : Option Border :=
  (fieldOf b f).border.find? (fun c => decide (c.seq + alignA b ≤ (fieldOf b f).cur.seq))

theorem borderEff_idle (h : nextCopy b f = none) : borderEff f b = b := by
  unfold nextCopy at h
  unfold borderEff
  simp only [h]

/-! What the next copy comes to: `d` is the block without it. -/

section due
variable {c : Border} {d : Blk} (h : nextCopy b f = some c)
  (hd : onField f (fun y => { y with border := y.border.erase c }) b = d)

include hd in
theorem erase_calm : Calm b d := by
  subst hd
  exact onField_calm b (fun _ => rfl)

include h hd

theorem borderEff_dropped (hn : alignOn b f = false ∨ c.seq < (fieldOf b f).k0) : borderEff f b = d := by
  rw [← alignOn_calm (erase_calm hd) f] at hn
  unfold nextCopy at h
  unfold borderEff
  simp only [h, hd]
  exact if_pos hn

variable (hn : ¬ (alignOn b f = false ∨ c.seq < (fieldOf b f).k0))
include hn

theorem borderEff_tested (ho : openRec b f = some r) (hs : r.seq = c.seq) :
    borderEff f b = matchHit f c.seq c.tile c.u c.out d := by
  rw [← alignOn_calm (erase_calm hd) f] at hn
  rw [← openRec_of_path ((erase_calm hd).path f)] at ho
  unfold nextCopy at h
  unfold borderEff
  simp only [h, hd]
  rw [if_neg hn, ho]
  exact if_pos hs

theorem borderEff_late (ho : ∀ r, openRec b f = some r → r.seq ≠ c.seq) : borderEff f b = copyLate f c d := by
  rw [← alignOn_calm (erase_calm hd) f] at hn
  rw [← openRec_of_path ((erase_calm hd).path f)] at ho
  unfold nextCopy at h
  unfold borderEff
  simp only [h, hd]
  rw [if_neg hn]
  split
  next r hr => exact if_neg (ho r hr)
  next => rfl

end due

/-! The commands. -/

theorem alignOn_of_clocked (hc : clocked b f = true) : alignOn b f = (fieldOf b f).fenEff := by
  unfold alignOn; rw [hc, Bool.true_and]

/-- A field whose clock stands still maps nothing. -/
theorem becomes_unclocked (ho : st.blk.md.off = false) (hc : clocked st.blk f = false) (rel : Nat) :
    Becomes st (.mapSample f rel) st.blk ∧ Becomes st (.borderCopy f) st.blk :=
  ⟨becomes_of_run (f := mapSampleEff f rel) rfl ho (if_neg (ne_true_of_eq_false hc)),
   becomes_of_run (f := fun b => if clocked b f then borderEff f b else b) rfl ho (if_neg (ne_true_of_eq_false hc))⟩

section clocked
variable {rel : Nat} {d : Blk} (ho : st.blk.md.off = false) (hc : clocked st.blk f = true)
include ho hc

theorem becomes_mapSample (h : mapHead f (times (releaseWord f) (min 4 rel) st.blk) = d) : Becomes st (.mapSample f rel) d :=
  becomes_of_run (f := mapSampleEff f rel) rfl ho ((if_pos hc).trans h)

/-- With no word to release, the head of the FIFO is mapped. -/
theorem becomes_mapOne {xs : List Sample} (hq : (fieldOf st.blk f).relq = []) (hx : (fieldOf st.blk f).fifo = x :: xs)
    (hr : openRec st.blk f = some r) (h : mapOne f r x (onField f (fun y => { y with fifo := xs }) st.blk) = d) :
    Becomes st (.mapSample f rel) d := by
  refine becomes_mapSample ho hc ?_
  rw [times_releaseWord_nil _ hq, mapHead_cons hx hr, h]

theorem becomes_borderCopy (h : borderEff f st.blk = d) : Becomes st (.borderCopy f) d :=
  becomes_of_run (f := fun b => if clocked b f then borderEff f b else b) rfl ho ((if_pos hc).trans h)

end clocked

/-- Settles O42: a word's release, the sample at the FIFO's head and a border copy, each by the cases of its unit. -/
theorem samplesAreMapped : Obligations.SamplesAreMapped := by
  unfold Obligations.SamplesAreMapped
  intro st f rel ho hf b g space
  refine ⟨fun hc => becomes_unclocked ho hc rel, fun hc => ⟨?release, becomes_mapSample ho hc rfl, mapHead_idle, ?sample,
    fun h => becomes_borderCopy ho hc (borderEff_idle h), ?copy⟩⟩
  case release =>
    intro w ws hq d
    refine ⟨fun hn => ?_, fun hn hr => ?_, fun r hn hr => ?_⟩
    · exact becomes_mapSample ho hc (congrArg (mapHead f) (releaseWord_fits hf hq hn))
    · have hd : mapHead f d = d := mapHead_idle (.inr ((openRec_onField_relq ws).trans hr))
      exact becomes_mapSample ho hc ((congrArg (mapHead f) (releaseWord_full_none hf hq hn hr)).trans hd)
    · exact becomes_mapSample ho hc (congrArg (mapHead f) (releaseWord_full_some hf hq hn hr))
  case sample =>
    intro x xs r hq hx hr d told tel ped gan kept
    have hd : Calm b d := onField_calm b (fun _ => by rfl)
    have mapped {e : Blk} (h : mapOne f r x d = e) : Becomes st (.mapSample f rel) e := becomes_mapOne ho hc hq hx hr h
    refine ⟨fun h => mapped (mapOne_masked h), fun h hp => mapped (mapOne_poisoned h hp),
      fun h t => mapped (mapOne_noTile h rfl rfl rfl t), fun h t hv => mapped (mapOne_unmapped h rfl rfl rfl t hv),
      fun h t hv hpg => mapped (mapOne_noGain h rfl rfl rfl t hv hpg), fun h t hv hpp hgp => ?_, fun v hl hw => ?_⟩
    · have conditioned := mapOne_conditioned (tel := tel) (ped := ped) (gan := gan) h rfl rfl rfl t hv hpp hgp
      have read : Fetched b gan.2 :=
        ((hd.fetched.trans (rdMem_fetched _ 8 d)).trans (rdMem_fetched _ 8 tel.2)).trans (rdMem_fetched _ 8 ped.2)
      clear_value gan ped tel
      intro raw out c hit n u v w copy
      have hraw : Int.tdiv (((x.amp.toNat : Int) - (ped.1.v.toNat : Int)) * (gan.1.v.toNat : Int)) 4096 = raw := rfl
      have hout : max (-8192) (min 8191 raw) = out := rfl
      have hn : nFields hit = n :=
        nFields_congr (((matchHit_cfg f r.seq tel.1.v.toNat x.u out c).trans (noteSaturation_cfg f raw out gan.2)).trans read.cfg)
      refine ⟨fun hz hl => mapped (conditioned.trans (mapOut_suppressed hraw hout hz hl)), fun hz => ?_⟩
      have tested := conditioned.trans (mapOut_tested hraw hout hz)
      refine ⟨fun h9 _ hu => ?_, fun h8 hu => ?_, fun h9 h8 => mapped (tested.trans (borderCopies_none h9 h8))⟩
      · have right := borderCopies_right (f := f) (fl := x.u) (out := out) (b := hit) h9 hu
        rw [hn] at right
        exact mapped (tested.trans right)
      · have left := borderCopies_left (f := f) (fl := x.u) (out := out) (b := hit) h8 hu
        rw [hn] at left
        exact mapped (tested.trans left)
    · exact rdMem_chanMap_clean 8 ((hd.clocked f).trans hc) ((clearing_of_path (hd.path f)).trans hl) hw
  case copy =>
    intro c h d
    refine ⟨fun hn => becomes_borderCopy ho hc (borderEff_dropped h rfl ?_), fun hfen hk => ?_⟩
    · rwa [alignOn_of_clocked hc]
    have hn : ¬ (alignOn b f = false ∨ c.seq < (fieldOf b f).k0) :=
      not_or.mpr ⟨ne_false_of_eq_true ((alignOn_of_clocked hc).trans hfen), Nat.not_lt.mpr hk⟩
    refine ⟨fun r hr hs => becomes_borderCopy ho hc (borderEff_tested h rfl hn hr hs), fun hs => ?_⟩
    have late : Becomes st (.borderCopy f) (copyLate f c d) := becomes_borderCopy ho hc (borderEff_late h rfl hn hs)
    exact ⟨late, Becomes.reaches late (reg_copyLate hf c d)⟩

end Sys2Proof.Mapping
end
